-- ==== Sys2Proof/Word.lean ====
section
/-! DEFINITION. The widths of the block: 00_scope.md rules R9, R11 and 30_encoding.md rule R70. -/

namespace Sys2Proof

/-- The logical domain: unsigned 16-bit, [0, 65535] (R9, R11). -/
abbrev U16 := BitVec 16

/-- A DAC code: 12 bits, [0, 4095] (R9, R11). -/
abbrev U12 := BitVec 12

/-- One byte of the serial bus (R33, R54). -/
abbrev Byte := BitVec 8

/-- One command word, the only format (R70). -/
abbrev CmdWord := BitVec 48

end Sys2Proof
end

