-- ==== Sys2Proof/Syntax.lean ====
section
/-! DEFINITION. The commands of the block, one constructor per row of spec/opcode_table.json
(30_encoding.md rule R76), and the raw fields of a command word (rule R71). -/

namespace Sys2Proof

/-- The 26 commands of rule R76. An index operand is the IDX field under its command's range (R72, R75),
a `v`, `x`, `r`, `d`, `old` the A field, `raw` the B field, a `code` is A[11:0], a `b` is A[0]. The types
hold each operand to the range rule R73 gives it. -/
inductive Instr where
  /-- R100. -/
  | update
  /-- R190. -/
  | rdAudioIn (n : Fin 2)
  /-- R191. -/
  | rdCvIn (n : Fin 2)
  /-- R192: 0 is `knob_main`, 1 is `knob_x`, 2 is `knob_y` (R75). -/
  | rdKnob (n : Fin 3)
  /-- R193. -/
  | rdSwitch
  /-- R171. -/
  | rdPulseIn (n : Fin 2)
  /-- R194. -/
  | wrAudioOut (n : Fin 2) (v : U16)
  /-- R195. -/
  | wrCvOut (n : Fin 2) (v : U16)
  /-- R172. -/
  | wrPulseOut (n : Fin 2) (b : Bool)
  /-- R196. -/
  | wrLed (k : Fin 6) (x : U16)
  /-- R197. -/
  | rdAudioOut (n : Fin 2)
  /-- R198. -/
  | rdCvOut (n : Fin 2)
  /-- R173. -/
  | rdPulseOut (n : Fin 2)
  /-- R199. -/
  | rdLed (k : Fin 6)
  /-- R150. -/
  | dacWrite (ch : Fin 2) (code : U12)
  /-- R174. -/
  | convertPulses
  /-- R102. -/
  | fSmooth (old raw : U16)
  /-- R120. -/
  | fDacScale (v : U16)
  /-- R122. -/
  | fPwmScale (v : U16)
  /-- R123. -/
  | fPwmDecode (d : U16)
  /-- R125. -/
  | fInInvert (r : U16)
  /-- R126. -/
  | fRect (r : U16)
  /-- R128. -/
  | fGamma (x : U16)
  /-- R151. -/
  | fDacFrame (ch : Fin 2) (code : U12)
  /-- R200. -/
  | rdChan (i : Fin 8)
  /-- R201. -/
  | rdPhase
  deriving DecidableEq, Repr

/-- The fields of a command word, most significant first (R71), with nothing checked. -/
structure Command where
  /-- Bits 47:40, the command selector. -/
  opc : BitVec 8
  /-- Bits 39:36, the index. -/
  idx : BitVec 4
  /-- Bits 35:32, reserved. -/
  rsv : BitVec 4
  /-- Bits 31:16, the first operand. -/
  a : U16
  /-- Bits 15:0, the second operand. -/
  b : U16
  deriving DecidableEq, Repr

end Sys2Proof
end

