-- ==== Sys2Proof/WellFormed.lean ====
section
/-! DEFINITION. Which command words are legal: the opcode map of 30_encoding.md rule R76 as a table of
operand ranges, and the checks of rule R73 on raw fields. The decoder (Decode.lean) is written apart
from this table, form by form; that the two agree is a statement for the provers. The operands of an
`Instr` are in range by their types, so the checks are on `Command`. -/

namespace Sys2Proof

/-- One row of rule R76: a command's selector and the ranges of its operand fields. An unused field has
the range {0} (R73). -/
structure OpcodeRow where
  opc : BitVec 8
  /-- IDX is legal below this. -/
  idxCount : Nat
  /-- A is legal up to this. -/
  aMax : Nat
  /-- B is legal up to this. -/
  bMax : Nat
  deriving DecidableEq, Repr

/-- Rows of the property reads and writes (OPC 0x01 to 0x1B). -/
def propertyRows : List OpcodeRow :=
  [ ⟨0x01, 1, 0, 0⟩, ⟨0x02, 2, 0, 0⟩, ⟨0x03, 2, 0, 0⟩, ⟨0x04, 3, 0, 0⟩, ⟨0x05, 1, 0, 0⟩, ⟨0x06, 2, 0, 0⟩,
    ⟨0x10, 2, 65535, 0⟩, ⟨0x11, 2, 65535, 0⟩, ⟨0x12, 2, 1, 0⟩, ⟨0x13, 6, 65535, 0⟩,
    ⟨0x18, 2, 0, 0⟩, ⟨0x19, 2, 0, 0⟩, ⟨0x1A, 2, 0, 0⟩, ⟨0x1B, 6, 0, 0⟩ ]

/-- Rows of the driver, the handover, the pure functions and the direct observations (0x20 to 0x39). -/
def componentRows : List OpcodeRow :=
  [ ⟨0x20, 2, 4095, 0⟩, ⟨0x28, 1, 0, 0⟩, ⟨0x30, 1, 65535, 65535⟩, ⟨0x31, 1, 65535, 0⟩, ⟨0x32, 1, 65535, 0⟩,
    ⟨0x33, 1, 65535, 0⟩, ⟨0x34, 1, 65535, 0⟩, ⟨0x35, 1, 65535, 0⟩, ⟨0x36, 1, 65535, 0⟩, ⟨0x37, 2, 4095, 0⟩,
    ⟨0x38, 8, 0, 0⟩, ⟨0x39, 1, 0, 0⟩ ]

/-- The complete opcode map (R76). -/
def opcodeMap : List OpcodeRow := propertyRows ++ componentRows

/-- RSV must always be 0 (R73). -/
def Command.rsvOk (c : Command) : Bool := c.rsv = 0

/-- IDX inside the row's range; 0 where the command has no index (R73). -/
def Command.idxOk (r : OpcodeRow) (c : Command) : Bool := c.idx.toNat < r.idxCount

/-- A inside the row's range: 0 where unused, at most 4095 for a code, at most 1 for a boolean (R72, R73). -/
def Command.aOk (r : OpcodeRow) (c : Command) : Bool := c.a.toNat ≤ r.aMax

/-- B inside the row's range: 0 where unused (R73). -/
def Command.bOk (r : OpcodeRow) (c : Command) : Bool := c.b.toNat ≤ r.bMax

/-- The word is a legal instance of the row. -/
def Command.fits (c : Command) (r : OpcodeRow) : Bool :=
  c.opc = r.opc && c.rsvOk && c.idxOk r && c.aOk r && c.bOk r

/-- A legal command word: some row of rule R76 with every field as rule R73 asks. Every other word is
illegal (R77). -/
def Command.wellFormed (c : Command) : Bool := opcodeMap.any c.fits

end Sys2Proof
end

