-- ==== Sys2Proof/Decode.lean ====
section
/-! DEFINITION. The decoder, total on 48-bit words and rejecting by name (30_encoding.md rules R71 to R73,
R76, R77, R79), and after it the encoder (rules R71, R80). Both are written by operand form. -/

namespace Sys2Proof

/-- Why a word is illegal (R73, R77). Safe: the word gets no meaning but the fault of rule R232. -/
inductive Reject where
  /-- An OPC that is no row of rule R76. -/
  | unlistedOpcode
  /-- RSV is not 0. -/
  | reservedNonzero
  /-- IDX is outside the command's range, or not 0 for a command without an index. -/
  | indexOutOfRange
  /-- An A or B the command does not use is not 0. -/
  | unusedNonzero
  /-- A[15:12] is not 0 for a DAC code. -/
  | codeTooWide
  /-- A[15:1] is not 0 for WR_PULSE_OUT. -/
  | notBoolean
  deriving DecidableEq, Repr

/-- What the decoder answers. -/
abbrev Decoded := Except Reject Instr

/-- The fields of a word (R71). -/
def Command.ofWord (w : CmdWord) : Command where
  opc := w.extractLsb' 40 8
  idx := w.extractLsb' 36 4
  rsv := w.extractLsb' 32 4
  a := w.extractLsb' 16 16
  b := w.extractLsb' 0 16

/-- The word `{OPC, IDX, RSV, A, B}` of the fields (R71, R80). -/
def Command.toWord (c : Command) : CmdWord := c.opc ++ c.idx ++ c.rsv ++ c.a ++ c.b

/-- The IDX field as an index below `n` (R72, R73). -/
def Command.index (c : Command) (n : Nat) (k : Fin n → Decoded) : Decoded :=
  if h : c.idx.toNat < n then k ⟨c.idx.toNat, h⟩ else .error .indexOutOfRange

/-- A command without an index: IDX is 0 (R73). -/
def Command.noIndex (c : Command) (k : Decoded) : Decoded :=
  if c.idx = 0 then k else .error .indexOutOfRange

/-- B unused (R73). -/
def Command.noB (c : Command) (k : Decoded) : Decoded :=
  if c.b = 0 then k else .error .unusedNonzero

/-- A and B unused (R73). -/
def Command.noAB (c : Command) (k : Decoded) : Decoded :=
  if c.a = 0 then c.noB k else .error .unusedNonzero

/-- A as a 12-bit DAC code (R72). -/
def Command.code (c : Command) (k : U12 → Decoded) : Decoded :=
  if c.a.toNat < 4096 then k (BitVec.ofNat 12 c.a.toNat) else .error .codeTooWide

/-- A as a boolean: only A[0] is used and A[15:1] is 0 (R72, R172). -/
def Command.bool (c : Command) (k : Bool → Decoded) : Decoded :=
  if c.a.toNat < 2 then k (c.a = 1) else .error .notBoolean

/-- The form with no operand. -/
def Command.formNone (c : Command) (i : Instr) : Decoded := c.noIndex (c.noAB (.ok i))

/-- The form with an index alone. -/
def Command.formIdx (c : Command) (n : Nat) (f : Fin n → Instr) : Decoded :=
  c.index n fun k => c.noAB (.ok (f k))

/-- The form with an index and a value. -/
def Command.formIdxVal (c : Command) (n : Nat) (f : Fin n → U16 → Instr) : Decoded :=
  c.index n fun k => c.noB (.ok (f k c.a))

/-- The form with an index and a boolean. -/
def Command.formIdxBool (c : Command) (n : Nat) (f : Fin n → Bool → Instr) : Decoded :=
  c.index n fun k => c.noB (c.bool fun b => .ok (f k b))

/-- The form with an index and a DAC code. -/
def Command.formIdxCode (c : Command) (n : Nat) (f : Fin n → U12 → Instr) : Decoded :=
  c.index n fun k => c.noB (c.code fun x => .ok (f k x))

/-- The form with a value alone. -/
def Command.formVal (c : Command) (f : U16 → Instr) : Decoded := c.noIndex (c.noB (.ok (f c.a)))

/-- The form with two values. -/
def Command.formValVal (c : Command) (f : U16 → U16 → Instr) : Decoded := c.noIndex (.ok (f c.a c.b))

/-- The row of rule R76 the OPC field selects. -/
def Command.select (c : Command) : Decoded :=
  match c.opc.toNat with
  | 0x01 => c.formNone .update
  | 0x02 => c.formIdx 2 .rdAudioIn
  | 0x03 => c.formIdx 2 .rdCvIn
  | 0x04 => c.formIdx 3 .rdKnob
  | 0x05 => c.formNone .rdSwitch
  | 0x06 => c.formIdx 2 .rdPulseIn
  | 0x10 => c.formIdxVal 2 .wrAudioOut
  | 0x11 => c.formIdxVal 2 .wrCvOut
  | 0x12 => c.formIdxBool 2 .wrPulseOut
  | 0x13 => c.formIdxVal 6 .wrLed
  | 0x18 => c.formIdx 2 .rdAudioOut
  | 0x19 => c.formIdx 2 .rdCvOut
  | 0x1A => c.formIdx 2 .rdPulseOut
  | 0x1B => c.formIdx 6 .rdLed
  | 0x20 => c.formIdxCode 2 .dacWrite
  | 0x28 => c.formNone .convertPulses
  | 0x30 => c.formValVal .fSmooth
  | 0x31 => c.formVal .fDacScale
  | 0x32 => c.formVal .fPwmScale
  | 0x33 => c.formVal .fPwmDecode
  | 0x34 => c.formVal .fInInvert
  | 0x35 => c.formVal .fRect
  | 0x36 => c.formVal .fGamma
  | 0x37 => c.formIdxCode 2 .fDacFrame
  | 0x38 => c.formIdx 8 .rdChan
  | 0x39 => c.formNone .rdPhase
  | _ => .error .unlistedOpcode

/-- The decoder: every 48-bit word is one command or is rejected by name (R77, R79). -/
def decode (w : CmdWord) : Decoded :=
  let c := Command.ofWord w
  if c.rsv = 0 then c.select else .error .reservedNonzero

/-- The IDX field of an index (R72: zero-extended when read back). -/
def idxField {n : Nat} (k : Fin n) : BitVec 4 := BitVec.ofNat 4 k.val

/-- The A field of a boolean: 1 for true (R72). -/
def boolField (b : Bool) : U16 := if b then 1 else 0

/-- The fields of a command (R71, R76). -/
def Instr.fields : Instr → Command
  | .update => ⟨0x01, 0, 0, 0, 0⟩
  | .rdAudioIn n => ⟨0x02, idxField n, 0, 0, 0⟩
  | .rdCvIn n => ⟨0x03, idxField n, 0, 0, 0⟩
  | .rdKnob n => ⟨0x04, idxField n, 0, 0, 0⟩
  | .rdSwitch => ⟨0x05, 0, 0, 0, 0⟩
  | .rdPulseIn n => ⟨0x06, idxField n, 0, 0, 0⟩
  | .wrAudioOut n v => ⟨0x10, idxField n, 0, v, 0⟩
  | .wrCvOut n v => ⟨0x11, idxField n, 0, v, 0⟩
  | .wrPulseOut n b => ⟨0x12, idxField n, 0, boolField b, 0⟩
  | .wrLed k x => ⟨0x13, idxField k, 0, x, 0⟩
  | .rdAudioOut n => ⟨0x18, idxField n, 0, 0, 0⟩
  | .rdCvOut n => ⟨0x19, idxField n, 0, 0, 0⟩
  | .rdPulseOut n => ⟨0x1A, idxField n, 0, 0, 0⟩
  | .rdLed k => ⟨0x1B, idxField k, 0, 0, 0⟩
  | .dacWrite ch code => ⟨0x20, idxField ch, 0, code.zeroExtend 16, 0⟩
  | .convertPulses => ⟨0x28, 0, 0, 0, 0⟩
  | .fSmooth old raw => ⟨0x30, 0, 0, old, raw⟩
  | .fDacScale v => ⟨0x31, 0, 0, v, 0⟩
  | .fPwmScale v => ⟨0x32, 0, 0, v, 0⟩
  | .fPwmDecode d => ⟨0x33, 0, 0, d, 0⟩
  | .fInInvert r => ⟨0x34, 0, 0, r, 0⟩
  | .fRect r => ⟨0x35, 0, 0, r, 0⟩
  | .fGamma x => ⟨0x36, 0, 0, x, 0⟩
  | .fDacFrame ch code => ⟨0x37, idxField ch, 0, code.zeroExtend 16, 0⟩
  | .rdChan i => ⟨0x38, idxField i, 0, 0, 0⟩
  | .rdPhase => ⟨0x39, 0, 0, 0, 0⟩

/-- The encoder: the command word of a command (R71, R80). -/
def encode (i : Instr) : CmdWord := i.fields.toWord

/-- The bits of an instruction as spec/opcode_table.json numbers them, as a command word: bits at and above
`nbits` are 0; the table's numbering is that of the one 48-bit word (R71). -/
def tableWord (nbits w : Nat) : Nat := w % 2 ^ nbits

/-- What the decoder reads from the instruction whose bits are `w` (numbered as the opcode table numbers
them); none where it rejects the word, or where the bits do not fit the one 48-bit format (R70). -/
def decodeTableWord (nbits w : Nat) : Option Instr :=
  if tableWord nbits w < 2 ^ 48 then (decode (BitVec.ofNat 48 (tableWord nbits w))).toOption else none

end Sys2Proof
end

