-- ==== Sys2Proof/Config.lean ====
section
/-! DEFINITION. The parameters the source leaves open (00_scope.md rule R10), the draws the environment
answers (00_scope.md rule R13, 10_state.md rule R40), and the free values: constants with no body, of
which nothing can be proved. The default values of the parameters stand in Machine/Params.lean. -/

namespace Sys2Proof

/-- SMOOTH_TIE, the result of the smoothing at an exact half (R10, R101, D7): a draw of floor or ceil
(the spec's default), or one of the fixed choices between the two neighbours (assumption 11). -/
inductive SmoothTie where
  | draw
  | floor
  | ceil
  | halfToEven
  deriving DecidableEq, Repr

/-- DAC_LOCK_MODEL, the outcome of the DAC bus try-acquire (R10, R152, D14). -/
inductive LockModel where
  | draw
  | always
  deriving DecidableEq, Repr

/-- SPI_BIT_ORDER, the order of the bits of one byte on the serial line (R10, R54, D15). -/
inductive BitOrder where
  | msbFirst
  | lsbFirst
  deriving DecidableEq, Repr, Inhabited

/-- The configuration of one block, fixed at construction (R10, R42). -/
structure Config where
  /-- SMOOTH_S is `smoothNum / smoothDen` (R10, R101). -/
  smoothNum : Nat
  smoothDen : Nat
  smoothTie : SmoothTie
  /-- MUX_INV[c] for the slots c = 2..7, at index c - 2 (R10, R108). -/
  muxInv : Vector Bool 6
  /-- DAC_CFG[ch], the header OR'd into the frames of channel ch (R10, R155). -/
  dacCfg : Vector U16 2
  spiBitOrder : BitOrder
  ledInvert : Bool
  dacLockModel : LockModel
  deriving DecidableEq, Repr

/-- What rules R10, R101 and R155 ask of a configuration: SMOOTH_S is a rational in [0,1] in lowest
terms, DAC_CFG[0] is the source's constant, and DAC_CFG[1] has its low 12 bits clear and differs
from DAC_CFG[0]. -/
abbrev Config.WellFormed (c : Config) : Prop :=
  0 < c.smoothDen ∧ c.smoothNum ≤ c.smoothDen ∧ Nat.Coprime c.smoothNum c.smoothDen ∧
    c.dacCfg[0] = 0x3000#16 ∧ c.dacCfg[1].toNat % 4096 = 0 ∧ c.dacCfg[1] ≠ c.dacCfg[0]

/-- What the environment answers to every draw one command may make (R13, R40; assumption 4). No command
draws a port twice, so one record serves one command. -/
structure Draws where
  /-- `SampleADC(adc_mux_a)`, the first mux ADC bus (R40, R100). -/
  adcMuxA : U16
  /-- `SampleADC(adc_mux_b)`, the second mux ADC bus (R40, R100). -/
  adcMuxB : U16
  /-- `SampleADC(adc_audio[n])` (R40, R190). -/
  adcAudio : Vector U16 2
  /-- `ReadPin(pulse_in_level[n])`, true for a high line (R40, R171). -/
  pulseInLevel : Vector Bool 2
  /-- The draw `acq` of `TryAcquire(dac_lock)` (R152). -/
  acq : Bool
  /-- SMOOTH_TIE's draw for the command's first smoothing, true for the upper neighbour (R101). -/
  tieA : Bool
  /-- SMOOTH_TIE's draw for UPDATE's second smoothing (R100, R101). -/
  tieB : Bool
  deriving DecidableEq, Repr, Inhabited

/-- The free draw records: the environment's answers where no script gives them. Nothing is known of
any of them (R13; assumption 4). -/
opaque Config.freeDraws : Nat → Draws

/-- The level the external renderer gives a released pulse output pin at each observation that no script answers:
"a draw at every observation of the port" (R174, D18; assumption 18). Nothing is known of any of them. -/
opaque Config.freePinLevel : Nat → Bool

/-- Which legal header DAC_CFG[1] is: OPEN in the spec (R155, D12; assumption 9). The header's low 12
bits are 0 and it is not 0x3000, which leaves 15 values. -/
opaque Config.freeDacHeader1 : Fin 15

/-- SPI_BIT_ORDER: OPEN in the spec (R54, D15; assumption 10). -/
opaque Config.freeSpiBitOrder : BitOrder

end Sys2Proof
end

