-- ==== Sys2Proof/Machine/Params.lean ====
section
/-! DEFINITION. The values State.reset gives the configuration: the defaults of 00_scope.md rule R10, and
free values where the spec leaves a parameter OPEN. -/

namespace Sys2Proof.Machine

/-- The header nibbles DAC_CFG[1] may have: every 4-bit value but the 3 of DAC_CFG[0] (R155). -/
def headerNibble (k : Fin 15) : Nat := if k.val < 3 then k.val else k.val + 1

/-- A legal header of channel 1, its low 12 bits 0 (R155). -/
def legalHeader1 (k : Fin 15) : U16 := BitVec.ofNat 16 (headerNibble k * 4096)

/-- The configuration at reset: SMOOTH_S 3/10, SMOOTH_TIE draw, MUX_INV true for 2 and 3 and false for 4 to
7, DAC_CFG[0] 0x3000, LED_INVERT false, DAC_LOCK_MODEL draw (R10); DAC_CFG[1] and SPI_BIT_ORDER are
OPEN and free here (D12, D15; assumptions 9 and 10). -/
def defaultConfig : Config where
  smoothNum := 3
  smoothDen := 10
  smoothTie := .draw
  muxInv := #v[true, true, false, false, false, false]
  dacCfg := #v[0x3000, legalHeader1 Config.freeDacHeader1]
  spiBitOrder := Config.freeSpiBitOrder
  ledInvert := false
  dacLockModel := .draw

end Sys2Proof.Machine
end

