-- ==== Sys2Proof/Machine/State.lean ====
section
/-! DEFINITION. The state of the block as plain data (10_state.md rules R20 to R39), the configuration it was
built with (rule R42), and the model's own fields for the host's commands and the environment's draws. -/

namespace Sys2Proof.Machine

/-- The physical level of a pulse output line (R32): driven by the block, true for high, or released to the
external renderer (R174). -/
inductive PinLevel where
  | driven (high : Bool)
  | released
  deriving DecidableEq, Repr

/-- The events the block reports (R35, R236). -/
inductive Event where
  /-- A DAC transfer skipped because the bus lock was not acquired (R154). -/
  | dacSkip (ch : Fin 2) (code : U12)
  deriving DecidableEq, Repr

/-- Fault reasons, the complete list of rule R231. The faulting command writes one into `State.fault` and
changes nothing else (R230); a step of a state that holds one answers `Outcome.fault` with it, since the
block is stopped for good. Safe: where the source says nothing the block stops. -/
inductive Fault where
  /-- Raised by step when the decoder rejects the command word; records the word (R232). Safe. -/
  | illegalCommand (word : CmdWord)
  /-- Raised by RD_AUDIO_OUT, RD_CV_OUT and RD_LED on a cell not written since reset; records OPC and IDX
  (R233). Safe. -/
  | unwrittenRead (opc : BitVec 8) (idx : BitVec 4)
  /-- Raised by WR_PULSE_OUT and RD_PULSE_OUT after CONVERT_PULSES; records OPC and IDX (R234). Safe. -/
  | pulseRetired (opc : BitVec 8) (idx : BitVec 4)
  deriving DecidableEq, Repr

/-- Refusals. -/
inductive Refusal where
  /-- Raised by exec's arm of an instruction that has no meaning yet. No arm is one. Safe. -/
  | notModelled (mnemonic : String)
  deriving DecidableEq, Repr

/-- The state of the block. A `none` in an output cell, in `dacCode`, `fault` or `result` is the spec's ⊥
(R12), a value of the spec's own. -/
structure State where
  /-- ChannelTable (R20). -/
  chan : Vector U16 8
  /-- MuxPhase (R23). -/
  phase : BitVec 2
  /-- The two select lines (R25). -/
  muxSel : BitVec 2
  /-- OutputState: the last logical value written to each audio output (R28). -/
  outAudio : Vector (Option U16) 2
  /-- OutputState: CV outputs (R28). -/
  outCv : Vector (Option U16) 2
  /-- OutputState: pulse outputs (R28). -/
  outPulse : Vector Bool 2
  /-- OutputState: LED brightness, before gamma (R28). -/
  outLed : Vector (Option U16) 6
  /-- PWM duty of the CV outputs (R30). -/
  cvPwm : Vector U16 2
  /-- PWM duty of the LEDs (R31). -/
  ledPwm : Vector U16 6
  /-- Physical level of the pulse output lines (R32). -/
  pulseOutLevel : Vector PinLevel 2
  /-- DAC chip select, true for high, which is deasserted (R33). -/
  dacCsN : Bool
  /-- Bytes sent on the serial bus, oldest first (R33). -/
  spiTrace : List Byte
  /-- The code last transmitted to each DAC channel (R34). -/
  dacCode : Vector (Option U12) 2
  /-- Events reported, oldest first (R35). -/
  eventTrace : List Event
  /-- The lock of the serial bus, true while held (R36). -/
  dacLock : Bool
  /-- The pulse outputs were handed over (R37). -/
  pulsesRetired : Bool
  /-- The fault record (R39). -/
  fault : Option Fault
  /-- The result port: what the last command returned (R74). -/
  result : Option U16
  /-- The parameters the block was built with; no step changes them (R42; assumption 5). -/
  cfg : Config
  /-- MODEL: commands the host has issued and the block has not taken, next first (R3; assumption 3). -/
  commands : List CmdWord
  /-- MODEL: what the environment answers to the draws of the current command (R13; assumption 4). -/
  draws : Draws
  /-- MODEL: the environment's script, one record a step, next first; free where it is empty (assumption 4). -/
  inputs : List Draws
  /-- MODEL: the index of the next free draw record (assumption 4). -/
  tick : Nat
  /-- MODEL: the levels the external renderer gives released pins, one an observation, next first; free where the
  list is empty (R174; assumption 18). No step reads or writes it. -/
  rendererLevels : List Bool
  /-- MODEL: the index of the next observation of a released pin (assumption 18). No step reads or writes it. -/
  pinTick : Nat
  deriving DecidableEq, Repr

/-- The block right after its construction (R260, R261). `muxSel`, `cvPwm` and `ledPwm` are unspecified
there: the zeros are the model's choice (assumptions 6 and 7), as are the model's own fields (21). -/
def State.reset : State where
  chan := Vector.replicate 8 0
  phase := 0
  muxSel := 0
  outAudio := Vector.replicate 2 none
  outCv := Vector.replicate 2 none
  outPulse := Vector.replicate 2 false
  outLed := Vector.replicate 6 none
  cvPwm := Vector.replicate 2 0
  ledPwm := Vector.replicate 6 0
  pulseOutLevel := Vector.replicate 2 (.driven true)
  dacCsN := true
  spiTrace := []
  dacCode := Vector.replicate 2 none
  eventTrace := []
  dacLock := false
  pulsesRetired := false
  fault := none
  result := none
  cfg := defaultConfig
  commands := []
  draws := Config.freeDraws 0
  inputs := []
  tick := 1
  rendererLevels := []
  pinTick := 0

end Sys2Proof.Machine
end

