-- ==== Sys2Proof/Machine/Flags.lean ====
section
/-! DEFINITION. The block has no flags (10_state.md rule R38): "the outcome of a command is its result, its port
writes, or a fault". So this file holds what stands in their place, the encoding of a value on the
16-bit result port (30_encoding.md rule R74), zero-extended where it is narrower. -/

namespace Sys2Proof.Machine

/-- A boolean result is 0 or 1 (R74). -/
def resultOfBool (b : Bool) : U16 := if b then 1 else 0

/-- A 12-bit value on the result port (R76, F_DAC_SCALE). -/
def resultOfCode (x : U12) : U16 := BitVec.ofNat 16 x.toNat

/-- MuxPhase on the result port, `zext_16(phase)` (R201). -/
def resultOfPhase (p : BitVec 2) : U16 := BitVec.ofNat 16 p.toNat

end Sys2Proof.Machine
end

