-- ==== Sys2Proof/Machine/Operands.lean ====
section
/-! DEFINITION. How an operand or the phase names a piece of state: the slot table of 10_state.md rules R21
and R23 and the index conventions of 30_encoding.md rule R75. -/

namespace Sys2Proof.Machine

/-- Slot `2 + n` holds CV input n (R21, R191). -/
def cvSlot (n : Fin 2) : Fin 8 := ⟨2 + n.val, by omega⟩

/-- Slot `4 + n` holds knob n (R21, R192). -/
def knobSlot (n : Fin 3) : Fin 8 := ⟨4 + n.val, by omega⟩

/-- Slot 7 holds the switch reading (R21, R193). -/
def switchSlot : Fin 8 := 7

/-- The slot phase p fills from the first ADC bus, `4 + p` (R23, R100). -/
def slotA (p : BitVec 2) : Fin 8 := ⟨4 + p.toNat, by have := p.isLt; omega⟩

/-- The slot phase p fills from the second ADC bus, `2 + p[0]` (R23, R100). -/
def slotB (p : BitVec 2) : Fin 8 := ⟨2 + p.toNat % 2, by omega⟩

/-- MUX_INV[c] of the slot; slots 0 and 1 have none and are never sampled (R10, R22). -/
def muxInvAt (c : Config) (slot : Fin 8) : Bool :=
  if h : 2 ≤ slot.val then c.muxInv[slot.val - 2] else false

/-- The DAC channel of audio output n: `_1_` is channel 0, `_2_` channel 1 (R194, D13). -/
def dacChannel (n : Fin 2) : Fin 2 := n

/-- The IDX value a fault records (R231). -/
def recordedIdx {n : Nat} (k : Fin n) : BitVec 4 := BitVec.ofNat 4 k.val

end Sys2Proof.Machine
end

