-- ==== Sys2Proof/Machine/Ops.lean ====
section
/-! DEFINITION. The named operations over the state: one update per cell and port, raising a fault, the
bus-lock attempt, taking the next command and the next draws, and the observation of a pulse pin and what is seen
on the serial wire. There is no memory (20_memory.md rule R50). -/

namespace Sys2Proof.Machine

/-- `phase <- p`. -/
def State.setPhase (s : State) (p : BitVec 2) : State := { s with phase := p }

/-- `mux_sel <- p` (R25: line i carries bit i). -/
def State.setMuxSel (s : State) (p : BitVec 2) : State := { s with muxSel := p }

/-- `chan[c] <- v`. -/
def State.setChan (s : State) (c : Fin 8) (v : U16) : State := { s with chan := s.chan.set c v }

/-- `out_audio[n] <- v`. -/
def State.setOutAudio (s : State) (n : Fin 2) (v : U16) : State := { s with outAudio := s.outAudio.set n (some v) }

/-- `out_cv[n] <- v`. -/
def State.setOutCv (s : State) (n : Fin 2) (v : U16) : State := { s with outCv := s.outCv.set n (some v) }

/-- `out_pulse[n] <- b`. -/
def State.setOutPulse (s : State) (n : Fin 2) (b : Bool) : State := { s with outPulse := s.outPulse.set n b }

/-- `out_led[k] <- x`. -/
def State.setOutLed (s : State) (k : Fin 6) (x : U16) : State := { s with outLed := s.outLed.set k (some x) }

/-- `cv_pwm[n] <- d`. -/
def State.setCvPwm (s : State) (n : Fin 2) (d : U16) : State := { s with cvPwm := s.cvPwm.set n d }

/-- `led_pwm[k] <- d`. -/
def State.setLedPwm (s : State) (k : Fin 6) (d : U16) : State := { s with ledPwm := s.ledPwm.set k d }

/-- `pulse_out_level[n] <- l`. -/
def State.setPulseLevel (s : State) (n : Fin 2) (l : PinLevel) : State :=
  { s with pulseOutLevel := s.pulseOutLevel.set n l }

/-- `dac_cs_n <- high`. -/
def State.setDacCsN (s : State) (high : Bool) : State := { s with dacCsN := high }

/-- `SpiSend(x)`: one byte more on the serial bus (R13, R33). -/
def State.spiSend (s : State) (x : Byte) : State := { s with spiTrace := s.spiTrace ++ [x] }

/-- `dac_code[ch] <- x`. -/
def State.setDacCode (s : State) (ch : Fin 2) (x : U12) : State := { s with dacCode := s.dacCode.set ch (some x) }

/-- `Log(e)`: one event more in the event trace (R13, R35). -/
def State.log (s : State) (e : Event) : State := { s with eventTrace := s.eventTrace ++ [e] }

/-- `dac_lock <- held`. -/
def State.setDacLock (s : State) (held : Bool) : State := { s with dacLock := held }

/-- `pulses_retired <- true` (R37: nothing sets it back). -/
def State.retirePulses (s : State) : State := { s with pulsesRetired := true }

/-- `result <- v` (R74). -/
def State.returns (s : State) (v : U16) : State := { s with result := some v }

/-- The command returns nothing: `result` is ⊥ for it (R74). -/
def State.returnsNothing (s : State) : State := { s with result := none }

/-- Taking a fault, `raise Fault(r)`: the record is written and nothing else changes, `result` included
(R230; assumption 16). There is no return from a fault: the block is stopped until reset (R230, R238). -/
def State.raise (s : State) (r : Fault) : State := { s with fault := some r }

/-- `TryAcquire(dac_lock)`: false while the lock is held, else the draw `acq`, or true under the
single-writer premise (R152). It never waits. -/
def State.tryAcquire (s : State) : Bool :=
  !s.dacLock && match s.cfg.dacLockModel with
    | .draw => s.draws.acq
    | .always => true

/-- The read-back of an output cell: its value, or UnwrittenRead where it holds ⊥ (R197 to R199, R233). -/
def State.readBack (s : State) (cell : Option U16) (r : Fault) : State :=
  match cell with
  | some v => s.returns v
  | none => s.raise r

/-- The draw record the environment gives the next step: the script's next one, else a free one (R13;
assumption 4). -/
def State.nextDraws (s : State) : Draws :=
  match s.inputs with
  | d :: _ => d
  | [] => Config.freeDraws s.tick

/-- The environment presents its next draws. -/
def State.takeDraws (s : State) : State :=
  { s with draws := s.nextDraws, inputs := s.inputs.tail, tick := s.tick + 1 }

/-- The command the host has issued next, if any (R3; assumption 3). -/
def State.nextCommand (s : State) : Option CmdWord := s.commands.head?

/-- The block takes the host's next command. -/
def State.popCommand (s : State) : State := { s with commands := s.commands.tail }

/-- The host issues the word `w` as the very next command. -/
def State.pushCommand (s : State) (w : CmdWord) : State := { s with commands := w :: s.commands }

/-- The level the external renderer gives the next observation of a released pin: the script's next one, else a free
one (R174; assumption 18). -/
def State.nextRendererLevel (s : State) : Bool :=
  match s.rendererLevels with
  | b :: _ => b
  | [] => Config.freePinLevel s.pinTick

/-- That level is taken: the next observation has its own. -/
def State.takeRendererLevel (s : State) : State :=
  { s with rendererLevels := s.rendererLevels.tail, pinTick := s.pinTick + 1 }

/-- One observation of the pulse output pin n from outside: the level, true for high, and the state after. A pin the
block drives has the level it drives. A released one is "a draw at every observation of the port" (R32, R174, D18). An
observation is no step, so it goes on where a fault has stopped the block. -/
def State.observePulsePin (s : State) (n : Fin 2) : Bool × State :=
  match s.pulseOutLevel[n] with
  | .driven high => (high, s)
  | .released => (s.nextRendererLevel, s.takeRendererLevel)

/-- The bits of a byte in the order SPI_BIT_ORDER sends them (R54, D15). -/
def wireBits (o : BitOrder) (x : Byte) : List Bool :=
  let lsbUp := (List.range 8).map x.getLsbD
  match o with
  | .lsbFirst => lsbUp
  | .msbFirst => lsbUp.reverse

/-- The bits sent on the serial line so far, oldest first (R33, R54). -/
def State.spiWire (s : State) : List Bool := s.spiTrace.flatMap (wireBits s.cfg.spiBitOrder)

end Sys2Proof.Machine
end

