-- ==== Sys2Proof/Machine/Scaler.lean ====
section
/-! DEFINITION. ValueScaler and GammaCorrector (41_valuescaler.md): the mappings as exact arithmetic on
naturals, narrowed at the end, and the commands F_DAC_SCALE, F_PWM_SCALE, F_PWM_DECODE, F_IN_INVERT,
F_RECT and F_GAMMA, which write `result` only. -/

namespace Sys2Proof.Machine

/-- `clamp(v, lo, hi)` (R11). -/
def clamp (v lo hi : Nat) : Nat := min (max v lo) hi

/-- `65535 - v`, the polarity inversion of the 16-bit domain. -/
def invert16 (v : U16) : U16 := BitVec.ofNat 16 (65535 - v.toNat)

/-- `DacScale(v) = 4095 - (v // 16)` (R120). -/
def dacScale (v : U16) : U12 := BitVec.ofNat 12 (4095 - v.toNat / 16)

/-- `PwmScale(v) = 65535 - clamp(v, 0, 65535)` (R122). -/
def pwmScale (v : U16) : U16 := BitVec.ofNat 16 (65535 - clamp v.toNat 0 65535)

/-- `PwmDecode(d) = 65535 - d` (R123). -/
def pwmDecode (d : U16) : U16 := invert16 d

/-- `InInvert(r) = 65535 - r` (R125). -/
def inInvert (r : U16) : U16 := invert16 r

/-- `Rect(r) = r > 32768 ? (r - 32768)·2 : 0` (R126). -/
def rect (r : U16) : U16 := BitVec.ofNat 16 (if r.toNat > 32768 then (r.toNat - 32768) * 2 else 0)

/-- `Gamma(x) = clamp((x^2) // 65535, 0, 65535)`, the square exact (R128). -/
def gamma (x : U16) : U16 := BitVec.ofNat 16 (clamp (x.toNat ^ 2 / 65535) 0 65535)

/-- The LED duty of a brightness: gamma, inverted where LED_INVERT says so (R196, D16). -/
def ledDuty (c : Config) (x : U16) : U16 := if c.ledInvert then invert16 (gamma x) else gamma x

/-- F_DAC_SCALE (R120). -/
def execFDacScale (v : U16) (s : State) : Host.Outcome State Fault Refusal := .next (s.returns (resultOfCode (dacScale v)))

/-- F_PWM_SCALE (R122). -/
def execFPwmScale (v : U16) (s : State) : Host.Outcome State Fault Refusal := .next (s.returns (pwmScale v))

/-- F_PWM_DECODE (R123). -/
def execFPwmDecode (d : U16) (s : State) : Host.Outcome State Fault Refusal := .next (s.returns (pwmDecode d))

/-- F_IN_INVERT (R125). -/
def execFInInvert (r : U16) (s : State) : Host.Outcome State Fault Refusal := .next (s.returns (inInvert r))

/-- F_RECT (R126). -/
def execFRect (r : U16) (s : State) : Host.Outcome State Fault Refusal := .next (s.returns (rect r))

/-- F_GAMMA (R128). -/
def execFGamma (x : U16) (s : State) : Host.Outcome State Fault Refusal := .next (s.returns (gamma x))

end Sys2Proof.Machine
end

