-- ==== Sys2Proof/Machine/Dac.lean ====
section
/-! DEFINITION. DacDriver (42_dacdriver.md): the frame (rule R151), the transfer under the bus lock (rules R152
to R154), and the commands DAC_WRITE and F_DAC_FRAME. -/

namespace Sys2Proof.Machine

/-- `DacFrame(ch, code) = DAC_CFG[ch] | code` (R151). -/
def dacFrame (c : Config) (ch : Fin 2) (code : U12) : U16 := c.dacCfg[ch] ||| BitVec.ofNat 16 code.toNat

/-- The first byte sent, `f[15:8]` (R54, R153). -/
def frameHigh (f : U16) : Byte := f.extractLsb' 8 8

/-- The second byte sent, `f[7:0]` (R54, R153). -/
def frameLow (f : U16) : Byte := f.extractLsb' 0 8

/-- The transfer with the lock acquired, step by step as rule R153 lists it. -/
def State.transmit (s : State) (ch : Fin 2) (code : U12) : State :=
  let f := dacFrame s.cfg ch code
  ((((((s.setDacLock true).setDacCsN false).spiSend (frameHigh f)).spiSend (frameLow f)).setDacCsN true).setDacCode
    ch code).setDacLock false

/-- The skip on a failed acquisition: the event is logged, nothing is sent (R154). -/
def State.skipTransfer (s : State) (ch : Fin 2) (code : U12) : State := s.log (.dacSkip ch code)

/-- `DacTransfer(ch, code)` (R153). -/
def State.dacTransfer (s : State) (ch : Fin 2) (code : U12) : State :=
  if s.tryAcquire then s.transmit ch code else s.skipTransfer ch code

/-- DAC_WRITE (R150): the DacDriver alone, without the facade's bookkeeping. -/
def execDacWrite (ch : Fin 2) (code : U12) (s : State) : Host.Outcome State Fault Refusal :=
  .next (s.dacTransfer ch code).returnsNothing

/-- F_DAC_FRAME (R151). -/
def execFDacFrame (ch : Fin 2) (code : U12) (s : State) : Host.Outcome State Fault Refusal :=
  .next (s.returns (dacFrame s.cfg ch code))

end Sys2Proof.Machine
end

