-- ==== Sys2Proof/Machine/Facade.lean ====
section
/-! DEFINITION. ComputerFacade (44_facade.md): the logical input reads, the output writes, the read-backs and
the direct observations. -/

namespace Sys2Proof.Machine

/-- RD_AUDIO_IN (R190): a fresh draw of the audio ADC, inverted, not smoothed. -/
def execRdAudioIn (n : Fin 2) (s : State) : Host.Outcome State Fault Refusal :=
  .next (s.returns (inInvert s.draws.adcAudio[n]))

/-- RD_CV_IN (R191). -/
def execRdCvIn (n : Fin 2) (s : State) : Host.Outcome State Fault Refusal :=
  .next (s.returns (inInvert s.chan[cvSlot n]))

/-- RD_KNOB (R192). -/
def execRdKnob (n : Fin 3) (s : State) : Host.Outcome State Fault Refusal :=
  .next (s.returns s.chan[knobSlot n])

/-- RD_SWITCH (R193): the smoothed reading, not a decoded position. -/
def execRdSwitch (s : State) : Host.Outcome State Fault Refusal :=
  .next (s.returns s.chan[switchSlot])

/-- WR_AUDIO_OUT (R194): the logical value is recorded even if the transfer is skipped. -/
def execWrAudioOut (n : Fin 2) (v : U16) (s : State) : Host.Outcome State Fault Refusal :=
  .next ((s.setOutAudio n v).dacTransfer (dacChannel n) (dacScale v)).returnsNothing

/-- WR_CV_OUT (R195). -/
def execWrCvOut (n : Fin 2) (v : U16) (s : State) : Host.Outcome State Fault Refusal :=
  .next ((s.setOutCv n v).setCvPwm n (pwmScale v)).returnsNothing

/-- WR_LED (R196). -/
def execWrLed (k : Fin 6) (x : U16) (s : State) : Host.Outcome State Fault Refusal :=
  .next ((s.setOutLed k x).setLedPwm k (ledDuty s.cfg x)).returnsNothing

/-- RD_AUDIO_OUT (R197). -/
def execRdAudioOut (n : Fin 2) (s : State) : Host.Outcome State Fault Refusal :=
  .next (s.readBack s.outAudio[n] (.unwrittenRead 0x18 (recordedIdx n)))

/-- RD_CV_OUT (R198). -/
def execRdCvOut (n : Fin 2) (s : State) : Host.Outcome State Fault Refusal :=
  .next (s.readBack s.outCv[n] (.unwrittenRead 0x19 (recordedIdx n)))

/-- RD_LED (R199): the value before gamma. -/
def execRdLed (k : Fin 6) (s : State) : Host.Outcome State Fault Refusal :=
  .next (s.readBack s.outLed[k] (.unwrittenRead 0x1B (recordedIdx k)))

/-- RD_CHAN (R200). -/
def execRdChan (i : Fin 8) (s : State) : Host.Outcome State Fault Refusal := .next (s.returns s.chan[i])

/-- RD_PHASE (R201). -/
def execRdPhase (s : State) : Host.Outcome State Fault Refusal := .next (s.returns (resultOfPhase s.phase))

end Sys2Proof.Machine
end

