-- ==== Sys2Proof/Machine/Mux.lean ====
section
/-! DEFINITION. MuxScanner and SmoothingFilter (40_muxscanner.md): the smoothing of rule R101, one scan of the
multiplexer (rule R100), and the commands UPDATE and F_SMOOTH. -/

namespace Sys2Proof.Machine

/-- SMOOTH_TIE(lo, lo + 1): which neighbour of an exact half is taken; `up` is the draw (R101, D7). -/
def tieBreak (t : SmoothTie) (up : Bool) (lo : Nat) : Nat :=
  match t with
  | .draw => if up then lo + 1 else lo
  | .floor => lo
  | .ceil => lo + 1
  | .halfToEven => lo + lo % 2

/-- The rounding of the exact rational `n / den` to the nearest integer (R101). -/
def roundNearest (t : SmoothTie) (up : Bool) (n den : Nat) : Nat :=
  let lo := n / den
  let rem := n % den
  if 2 * rem < den then lo else if 2 * rem > den then lo + 1 else tieBreak t up lo

/-- `Smooth(old, raw)`: the rounding of `s·old + (1 - s)·raw`, with `up` the draw for an exact half (R101). -/
def smooth (c : Config) (up : Bool) (old raw : U16) : U16 :=
  BitVec.ofNat 16 (roundNearest c.smoothTie up (c.smoothNum * old.toNat + (c.smoothDen - c.smoothNum) * raw.toNat) c.smoothDen)

/-- The sample as the mux write path stores it into the slot: inverted where MUX_INV says so (R100, R108). -/
def muxSample (c : Config) (slot : Fin 8) (r : U16) : U16 := if muxInvAt c slot then invert16 r else r

/-- The servicing of one slot with a raw sample: `chan[slot] <- Smooth(chan[slot], t)` (R100). -/
def State.service (s : State) (slot : Fin 8) (up : Bool) (r : U16) : State :=
  s.setChan slot (smooth s.cfg up s.chan[slot] (muxSample s.cfg slot r))

/-- One scan: the phase advances, the select lines take it, both buses are sampled, and the two slots of the new
phase are serviced, in that order (R100, D3). -/
def State.scan (s : State) : State :=
  let p := s.phase + 1
  (((s.setPhase p).setMuxSel p).service (slotA p) s.draws.tieA s.draws.adcMuxA).service (slotB p) s.draws.tieB s.draws.adcMuxB

/-- UPDATE (R100). -/
def execUpdate (s : State) : Host.Outcome State Fault Refusal := .next s.scan.returnsNothing

/-- F_SMOOTH (R102): the smoothing as a pure command; its tie is the command's first tie draw. -/
def execFSmooth (old raw : U16) (s : State) : Host.Outcome State Fault Refusal :=
  .next (s.returns (smooth s.cfg s.draws.tieA old raw))

end Sys2Proof.Machine
end

