-- ==== Sys2Proof/Machine/Pulse.lean ====
section
/-! DEFINITION. DigitalIOAdapter (43_digital_io.md): active-low pins behind active-high logical values (rule
R170), and the commands RD_PULSE_IN, WR_PULSE_OUT, RD_PULSE_OUT and CONVERT_PULSES. -/

namespace Sys2Proof.Machine

/-- The logical value of a line level, true for high: `logical = not level` (R170). -/
def logicalOfLevel (level : Bool) : Bool := !level

/-- The line level of a logical value: `level = not logical` (R170). -/
def levelOfLogical (b : Bool) : Bool := !b

/-- RD_PULSE_IN (R171): a fresh draw of the line's level; not affected by CONVERT_PULSES. -/
def execRdPulseIn (n : Fin 2) (s : State) : Host.Outcome State Fault Refusal :=
  .next (s.returns (resultOfBool (logicalOfLevel s.draws.pulseInLevel[n])))

/-- WR_PULSE_OUT (R172). -/
def execWrPulseOut (n : Fin 2) (b : Bool) (s : State) : Host.Outcome State Fault Refusal :=
  .next (if s.pulsesRetired then s.raise (.pulseRetired 0x12 (recordedIdx n))
    else ((s.setOutPulse n b).setPulseLevel n (.driven (levelOfLogical b))).returnsNothing)

/-- RD_PULSE_OUT (R173): the pin is not read. -/
def execRdPulseOut (n : Fin 2) (s : State) : Host.Outcome State Fault Refusal :=
  .next (if s.pulsesRetired then s.raise (.pulseRetired 0x1A (recordedIdx n))
    else s.returns (resultOfBool s.outPulse[n]))

/-- CONVERT_PULSES (R174): both lines are released for good. -/
def execConvertPulses (s : State) : Host.Outcome State Fault Refusal :=
  .next ((s.retirePulses.setPulseLevel 0 .released).setPulseLevel 1 .released).returnsNothing

end Sys2Proof.Machine
end

