-- ==== Sys2Proof/Machine/Dispatch.lean ====
section
/-! DEFINITION. The dispatch: one arm per command of 30_encoding.md rule R76. -/

namespace Sys2Proof.Machine

def exec (i : Instr) (s : State) : Host.Outcome State Fault Refusal :=
  match i with
  | .update => Sys2Proof.Machine.execUpdate s
  | .rdAudioIn n => Sys2Proof.Machine.execRdAudioIn n s
  | .rdCvIn n => Sys2Proof.Machine.execRdCvIn n s
  | .rdKnob n => Sys2Proof.Machine.execRdKnob n s
  | .rdSwitch => Sys2Proof.Machine.execRdSwitch s
  | .rdPulseIn n => Sys2Proof.Machine.execRdPulseIn n s
  | .wrAudioOut n v => Sys2Proof.Machine.execWrAudioOut n v s
  | .wrCvOut n v => Sys2Proof.Machine.execWrCvOut n v s
  | .wrPulseOut n b => Sys2Proof.Machine.execWrPulseOut n b s
  | .wrLed k x => Sys2Proof.Machine.execWrLed k x s
  | .rdAudioOut n => Sys2Proof.Machine.execRdAudioOut n s
  | .rdCvOut n => Sys2Proof.Machine.execRdCvOut n s
  | .rdPulseOut n => Sys2Proof.Machine.execRdPulseOut n s
  | .rdLed k => Sys2Proof.Machine.execRdLed k s
  | .dacWrite ch code => Sys2Proof.Machine.execDacWrite ch code s
  | .convertPulses => Sys2Proof.Machine.execConvertPulses s
  | .fSmooth old raw => Sys2Proof.Machine.execFSmooth old raw s
  | .fDacScale v => Sys2Proof.Machine.execFDacScale v s
  | .fPwmScale v => Sys2Proof.Machine.execFPwmScale v s
  | .fPwmDecode d => Sys2Proof.Machine.execFPwmDecode d s
  | .fInInvert r => Sys2Proof.Machine.execFInInvert r s
  | .fRect r => Sys2Proof.Machine.execFRect r s
  | .fGamma x => Sys2Proof.Machine.execFGamma x s
  | .fDacFrame ch code => Sys2Proof.Machine.execFDacFrame ch code s
  | .rdChan c => Sys2Proof.Machine.execRdChan c s
  | .rdPhase => Sys2Proof.Machine.execRdPhase s

end Sys2Proof.Machine
end

