-- ==== Sys2Proof/Machine/Step.lean ====
section
/-! DEFINITION. One step: a stopped block has no step (60_exceptions.md rule R230); otherwise the environment
presents its next draws and the block takes the host's next command, decodes it and runs it to completion
(20_memory.md rule R56), or raises IllegalCommand (rule R232), or waits where the host has issued nothing
(70_reset_and_hazards.md rule R261). -/

namespace Sys2Proof.Machine

/-- The state a command runs in: its draws presented, the command taken from the host's sequence. -/
abbrev State.issued (s : State) : State := s.takeDraws.popCommand

/-- One step of the block. -/
def step (s : State) : Host.Outcome State Fault Refusal :=
  match s.fault with
  | some r => .fault r
  | none =>
    match s.nextCommand with
    | none => .next s.takeDraws
    | some w =>
      match decode w with
      | .ok i => exec i s.issued
      | .error _ => .next (s.issued.raise (.illegalCommand w))

/-- The host issues the instruction whose bits are `w`, numbered as spec/opcode_table.json numbers them, as the
very next command; nothing else changes (assumption 22). -/
def State.withFetchWord (s : State) (nbits w : Nat) : State := s.pushCommand (BitVec.ofNat 48 (tableWord nbits w))

end Sys2Proof.Machine
end

