-- ==== Sys2Proof/Machine/Assembler.lean ====
section
/-! DEFINITION. The assembler syntax of 30_encoding.md rule R80 and the pseudo-commands of rule R81: a line of text to
the command words it stands for. It is the host's side; no step reads it. An operand that does not
fit its field has no word; one that fits but is out of its command's range has an illegal word
(95_test_vectors.md section 2.6, `rd_knob 3`). -/

namespace Sys2Proof.Machine

/-- A line taken apart: the lower-case mnemonic and its operands in order, IDX first, then A, then B (R80). -/
structure AsmLine where
  mnemonic : String
  operands : List Nat
  deriving DecidableEq, Repr

/-- How one mnemonic is laid out: its OPC, whether the first operand is IDX, and how many values follow (R80). -/
structure AsmRow where
  mnemonic : String
  opc : BitVec 8
  indexed : Bool
  values : Nat
  deriving DecidableEq, Repr

/-- The property commands of rule R80. -/
def asmPropertyRows : List AsmRow :=
  [ ⟨"update", 0x01, false, 0⟩, ⟨"rd_audio_in", 0x02, true, 0⟩, ⟨"rd_cv_in", 0x03, true, 0⟩, ⟨"rd_knob", 0x04, true, 0⟩,
    ⟨"rd_switch", 0x05, false, 0⟩, ⟨"rd_pulse_in", 0x06, true, 0⟩, ⟨"wr_audio_out", 0x10, true, 1⟩,
    ⟨"wr_cv_out", 0x11, true, 1⟩, ⟨"wr_pulse_out", 0x12, true, 1⟩, ⟨"wr_led", 0x13, true, 1⟩,
    ⟨"rd_audio_out", 0x18, true, 0⟩, ⟨"rd_cv_out", 0x19, true, 0⟩, ⟨"rd_pulse_out", 0x1A, true, 0⟩, ⟨"rd_led", 0x1B, true, 0⟩ ]

/-- The other commands of rule R80. -/
def asmComponentRows : List AsmRow :=
  [ ⟨"dac_write", 0x20, true, 1⟩, ⟨"convert_pulses", 0x28, false, 0⟩, ⟨"f_smooth", 0x30, false, 2⟩,
    ⟨"f_dac_scale", 0x31, false, 1⟩, ⟨"f_pwm_scale", 0x32, false, 1⟩, ⟨"f_pwm_decode", 0x33, false, 1⟩,
    ⟨"f_in_invert", 0x34, false, 1⟩, ⟨"f_rect", 0x35, false, 1⟩, ⟨"f_gamma", 0x36, false, 1⟩,
    ⟨"f_dac_frame", 0x37, true, 1⟩, ⟨"rd_chan", 0x38, true, 0⟩, ⟨"rd_phase", 0x39, false, 0⟩ ]

/-- Every mnemonic of rule R80. -/
def asmRows : List AsmRow := asmPropertyRows ++ asmComponentRows

/-- The word `{OPC, IDX, 0b0000, A, B}` where each number fits its field (R71, R80). -/
def asmWord (opc : BitVec 8) (idx a b : Nat) : Option CmdWord :=
  if idx < 16 ∧ a < 65536 ∧ b < 65536 then
    some (Command.toWord ⟨opc, BitVec.ofNat 4 idx, 0, BitVec.ofNat 16 a, BitVec.ofNat 16 b⟩)
  else none

/-- The word of a row and its operands; none where their number is wrong (R80). -/
def AsmRow.assemble (r : AsmRow) (ops : List Nat) : Option CmdWord :=
  match r.indexed, r.values, ops with
  | false, 0, [] => asmWord r.opc 0 0 0
  | true, 0, [n] => asmWord r.opc n 0 0
  | false, 1, [v] => asmWord r.opc 0 v 0
  | true, 1, [n, v] => asmWord r.opc n v 0
  | false, 2, [v, w] => asmWord r.opc 0 v w
  | _, _, _ => none

/-- The commands a pseudo-command expands to (R81). -/
def pseudoExpansion (m : String) : Option (List Instr) :=
  if m = "prime" ∨ m = "cycle" then some (List.replicate 4 .update)
  else if m = "rd_knob_main" then some [.rdKnob 0]
  else if m = "rd_knob_x" then some [.rdKnob 1]
  else if m = "rd_knob_y" then some [.rdKnob 2]
  else none

/-- The words a line stands for: a command's one word, or a pseudo-command's expansion (R80, R81). -/
def AsmLine.assemble (l : AsmLine) : Option (List CmdWord) :=
  match asmRows.find? (fun r => r.mnemonic == l.mnemonic) with
  | some r => (r.assemble l.operands).map fun w => [w]
  | none => if l.operands = [] then (pseudoExpansion l.mnemonic).map (·.map encode) else none

/-- The line of a command (R80). -/
def lineOf : Instr → AsmLine
  | .update => ⟨"update", []⟩
  | .rdAudioIn n => ⟨"rd_audio_in", [n]⟩
  | .rdCvIn n => ⟨"rd_cv_in", [n]⟩
  | .rdKnob n => ⟨"rd_knob", [n]⟩
  | .rdSwitch => ⟨"rd_switch", []⟩
  | .rdPulseIn n => ⟨"rd_pulse_in", [n]⟩
  | .wrAudioOut n v => ⟨"wr_audio_out", [n, v.toNat]⟩
  | .wrCvOut n v => ⟨"wr_cv_out", [n, v.toNat]⟩
  | .wrPulseOut n b => ⟨"wr_pulse_out", [n, b.toNat]⟩
  | .wrLed k x => ⟨"wr_led", [k, x.toNat]⟩
  | .rdAudioOut n => ⟨"rd_audio_out", [n]⟩
  | .rdCvOut n => ⟨"rd_cv_out", [n]⟩
  | .rdPulseOut n => ⟨"rd_pulse_out", [n]⟩
  | .rdLed k => ⟨"rd_led", [k]⟩
  | .dacWrite ch code => ⟨"dac_write", [ch, code.toNat]⟩
  | .convertPulses => ⟨"convert_pulses", []⟩
  | .fSmooth old raw => ⟨"f_smooth", [old.toNat, raw.toNat]⟩
  | .fDacScale v => ⟨"f_dac_scale", [v.toNat]⟩
  | .fPwmScale v => ⟨"f_pwm_scale", [v.toNat]⟩
  | .fPwmDecode d => ⟨"f_pwm_decode", [d.toNat]⟩
  | .fInInvert r => ⟨"f_in_invert", [r.toNat]⟩
  | .fRect r => ⟨"f_rect", [r.toNat]⟩
  | .fGamma x => ⟨"f_gamma", [x.toNat]⟩
  | .fDacFrame ch code => ⟨"f_dac_frame", [ch, code.toNat]⟩
  | .rdChan i => ⟨"rd_chan", [i]⟩
  | .rdPhase => ⟨"rd_phase", []⟩

/-- The text without the blanks around it. -/
def trimBlanks (cs : List Char) : List Char :=
  ((cs.dropWhile Char.isWhitespace).reverse.dropWhile Char.isWhitespace).reverse

/-- The value of a digit, decimal or hexadecimal in either case. -/
def digitValue (c : Char) : Option Nat :=
  if '0' ≤ c ∧ c ≤ '9' then some (c.toNat - '0'.toNat)
  else if 'a' ≤ c ∧ c ≤ 'f' then some (c.toNat - 'a'.toNat + 10)
  else if 'A' ≤ c ∧ c ≤ 'F' then some (c.toNat - 'A'.toNat + 10)
  else none

/-- The value of digits in a base, after the value `acc` of the digits before them. -/
def digitsValue (base acc : Nat) : List Char → Option Nat
  | [] => some acc
  | c :: cs =>
    match digitValue c with
    | some d => if d < base then digitsValue base (acc * base + d) cs else none
    | none => none

/-- A number: decimal, `0x` hexadecimal or `0b` binary (R80). -/
def numberValue : List Char → Option Nat
  | [] => none
  | ['0', 'x'] => none
  | ['0', 'b'] => none
  | '0' :: 'x' :: cs => digitsValue 16 0 cs
  | '0' :: 'b' :: cs => digitsValue 2 0 cs
  | cs => digitsValue 10 0 cs

/-- The operands, separated by commas (R80). -/
def operandValues (cs : List Char) : Option (List Nat) :=
  match trimBlanks cs with
  | [] => some []
  | text => (text.splitOn ',').mapM fun t => numberValue (trimBlanks t)

/-- The words a line of source text stands for; a `;` starts a comment and a line without a command has none (R80). -/
def assembleText (text : List Char) : Option (List CmdWord) :=
  match trimBlanks (text.takeWhile (· ≠ ';')) with
  | [] => some []
  | code =>
    let isNameChar := fun c : Char => !c.isWhitespace
    match operandValues (code.dropWhile isNameChar) with
    | some ops => (AsmLine.mk (String.ofList (code.takeWhile isNameChar)) ops).assemble
    | none => none

end Sys2Proof.Machine
end

