-- ==== Sys2Proof/Safety.lean ====
section
/-! DEFINITION. The terms claims use: a block that runs, a run that completes, and the invariant of the block at
every command boundary. -/

namespace Sys2Proof.Machine

/-- The block is not stopped: no fault is recorded (60_exceptions.md rule R230). -/
abbrev State.Running (s : State) : Prop := s.fault = none

/-- `k` steps of the block, ending early where one is a fault or a refusal. -/
def steps : Nat → State → Host.Outcome State Fault Refusal
  | 0, s => .next s
  | k + 1, s =>
    match step s with
    | .next s' => steps k s'
    | .fault r => .fault r
    | .refused r => .refused r

/-- `k` steps complete normally: none finds the block stopped and none leaves a fault. "A model must treat a run that
reaches a fault as refuting any claim of normal completion" (R230). -/
def Completes (k : Nat) (s t : State) : Prop := steps k s = .next t ∧ t.Running

/-- What holds of the block at every command boundary. -/
structure State.Inv (s : State) : Prop where
  /-- The configuration is one rules R10, R101 and R155 admit. -/
  config : s.cfg.WellFormed
  /-- "`dac_lock` is false at every command boundary" (R36). -/
  lockFree : s.dacLock = false
  /-- The chip select is deasserted outside a transfer (R33, R153). -/
  chipSelectHigh : s.dacCsN = true
  /-- Every transfer sends its two bytes (R153). -/
  bytesInPairs : s.spiTrace.length % 2 = 0
  /-- Slots 0 and 1 keep their reset value 0 (R22). -/
  slotsUnassigned : s.chan[0] = 0 ∧ s.chan[1] = 0
  /-- A written CV output's duty is `65535 - v` (R195, R198). -/
  cvDuty : ∀ (n : Fin 2) (v : U16), s.outCv[n] = some v → s.cvPwm[n].toNat = 65535 - v.toNat
  /-- A written LED's duty is that of its brightness (R196). -/
  ledDuties : ∀ (k : Fin 6) (x : U16), s.outLed[k] = some x → s.ledPwm[k] = ledDuty s.cfg x
  /-- While the block owns the pulse lines each is the negation of its logical value (R170, R172). -/
  pulsesActiveLow : s.pulsesRetired = false → ∀ n : Fin 2, s.pulseOutLevel[n] = .driven (!s.outPulse[n])
  /-- After the handover the block drives neither line (R174). -/
  pulsesReleased : s.pulsesRetired = true → ∀ n : Fin 2, s.pulseOutLevel[n] = .released

/-- The word of UPDATE (30_encoding.md rule R82). -/
def updateWord : CmdWord := 0x010000000000

/-- Two blocks hold the same OutputState and agree on whether the pulse outputs are retired; their ports, draws and
everything else may differ. -/
structure OutputsAgree (s s' : State) : Prop where
  audio : s.outAudio = s'.outAudio
  cv : s.outCv = s'.outCv
  pulse : s.outPulse = s'.outPulse
  led : s.outLed = s'.outLed
  retired : s.pulsesRetired = s'.pulsesRetired

/-- The lock attempt of a transfer fails: the lock is held, or the environment's draw says so (R152). -/
abbrev State.BusContended (s : State) : Prop :=
  s.dacLock = true ∨ (s.cfg.dacLockModel = .draw ∧ s.draws.acq = false)

/-- The lock attempt of a transfer succeeds (R152). -/
abbrev State.BusFree (s : State) : Prop :=
  s.dacLock = false ∧ (s.cfg.dacLockModel = .draw → s.draws.acq = true)

/-- The commands that read state and write nothing but the result port (20_memory.md rule R57). -/
def isStateRead : Instr → Prop
  | .rdCvIn _ | .rdKnob _ | .rdSwitch | .rdAudioOut _ | .rdCvOut _ | .rdPulseOut _ | .rdLed _ | .rdChan _ | .rdPhase => True
  | .update | .rdAudioIn _ | .rdPulseIn _ | .wrAudioOut _ _ | .wrCvOut _ _ | .wrPulseOut _ _ | .wrLed _ _
  | .dacWrite _ _ | .convertPulses | .fSmooth _ _ | .fDacScale _ | .fPwmScale _ | .fPwmDecode _ | .fInInvert _
  | .fRect _ | .fGamma _ | .fDacFrame _ _ => False

end Sys2Proof.Machine
end

