-- ==== Sys2Proof/Certificates/Slice0/Obligations.lean ====
section
/-! DEFINITION. The statements for the provers. Each docstring names the rules of spec/ it formalises. A statement gives the
whole next state, so its frame (every cell, port and trace not named is as before) is part of it. There
is no memory (20_memory.md rule R50), so no statement speaks of bytes stored. "D<n>" names a decision the spec marks as
its own (92_eei_decisions.md), "inferred" a rule the spec marks as derived from others, "assumption <n>" a choice of the
model (notes/assumptions). -/

open Sys2Proof Sys2Proof.Machine

/-! ### Encoding -/

/-- R71, R76 (D1), R79 (inferred): the decoder gives every command back from its word, with every operand at every value. -/
def Obligations.DecodeInvertsEncode : Prop := ∀ i : Instr, decode (encode i) = .ok i

/-- R71, R73 (D1, D11), R79 (inferred): a word the decoder accepts is the word of the command it gives, so each command has one word. -/
def Obligations.EncodeInvertsDecode : Prop := ∀ (w : CmdWord) (i : Instr), decode w = .ok i → encode i = w

/-- R73, R76, R77 (D1, D11), R79 (inferred): the decoder accepts exactly the words the opcode map's table of ranges admits. -/
def Obligations.DecodeAcceptsExactlyLegalWords : Prop :=
  ∀ w : CmdWord, (∃ i, decode w = .ok i) ↔ (Command.ofWord w).wellFormed = true

/-- R82 (inferred, from D1's format): the worked encodings decode to the commands they stand for, through the opcode table's numbering too. -/
def Obligations.WorkedEncodingsDecode : Prop :=
  decode 0x010000000000 = .ok .update ∧ decode 0x1000B1DF0000 = .ok (.wrAudioOut 0 45535) ∧
    decode 0x200004E20000 = .ok (.dacWrite 0 1250) ∧ decode 0x300036B04E20 = .ok (.fSmooth 14000 20000) ∧
    decode 0x042000000000 = .ok (.rdKnob 2) ∧ decode 0x1350FFFF0000 = .ok (.wrLed 5 65535) ∧
    decodeTableWord 48 0x1350FFFF0000 = some (.wrLed 5 65535)

/-- R80 (D1): the assembler line of every command assembles to the command's word. -/
def Obligations.AssemblerWritesTheCommandWord : Prop := ∀ i : Instr, (lineOf i).assemble = some [encode i]

/-! ### One step -/

/-- R3, R56, R13: a running block takes the host's next command, is given the environment's next draws (the script's, or
free ones), and runs the decoded command. The two lists are the model's own (assumptions 3 and 4). -/
def Obligations.StepRunsTheDecodedCommand : Prop :=
  ∀ (s : State) (w : CmdWord) (ws : List CmdWord) (i : Instr),
    s.Running → s.commands = w :: ws → decode w = .ok i →
      (∀ d ds, s.inputs = d :: ds →
        step s = exec i { s with commands := ws, draws := d, inputs := ds, tick := s.tick + 1 }) ∧
      (s.inputs = [] →
        step s = exec i { s with commands := ws, draws := Config.freeDraws s.tick, tick := s.tick + 1 })

/-- The command the host issues with withFetchWord is the very next one to run (assumption 22). -/
def Obligations.IssuedWordRunsNext : Prop :=
  ∀ (s : State) (w : CmdWord) (i : Instr), s.Running → decode w = .ok i →
    step (s.withFetchWord 48 w.toNat) = exec i s.takeDraws

/-- R77, R232, R230 (the spec's decisions D11, D20): a word outside the opcode map raises IllegalCommand with the word
recorded, and nothing else of the block changes. -/
def Obligations.IllegalWordRaisesIllegalCommand : Prop :=
  ∀ (s : State) (w : CmdWord) (ws : List CmdWord), s.Running → s.commands = w :: ws →
    (Command.ofWord w).wellFormed = false → step s = .next { s.issued with fault := some (.illegalCommand w) }

/-- R230 (D20): once a fault is recorded the block takes no further command. -/
def Obligations.StoppedBlockTakesNoCommand : Prop :=
  ∀ (s : State) (r : Fault), s.fault = some r → step s = .fault r

/-- R261 (D17): with no command from the host the block waits; that a waiting step takes a draw record is the model's choice
(assumption 3). -/
def Obligations.WaitingBlockKeepsItsState : Prop :=
  ∀ s : State, s.Running → s.commands = [] →
    step s = .next { s with draws := s.nextDraws, inputs := s.inputs.tail, tick := s.tick + 1 }

/-- R230, R231 (D20): a step stops exactly on a recorded fault, with that record, and is never refused. -/
def Obligations.StepStopsOnlyOnARecordedFault : Prop :=
  ∀ s : State, (∀ r, step s = .fault r ↔ s.fault = some r) ∧ ∀ r, step s ≠ .refused r

/-- R230 (D20): a faulting command changes nothing but the fault record. -/
def Obligations.FaultingCommandChangesNothingElse : Prop :=
  ∀ (s t : State) (r : Fault), s.Running → step s = .next t → t.fault = some r →
    s.commands ≠ [] ∧ t = { s.issued with fault := some r }

/-- R231, R233, R234, R235 (D10, D18, D20, D29): which commands raise which fault, when, and what they record; no other command raises any. -/
def Obligations.FaultsOnlyAsListed : Prop :=
  ∀ (i : Instr) (s t : State) (r : Fault), s.Running → exec i s = .next t → t.fault = some r →
    (s.pulsesRetired = true ∧ ∃ n : Fin 2,
      ((∃ b, i = .wrPulseOut n b) ∧ r = .pulseRetired 0x12 (BitVec.ofNat 4 n)) ∨
        (i = .rdPulseOut n ∧ r = .pulseRetired 0x1A (BitVec.ofNat 4 n))) ∨
    (∃ n : Fin 2, (i = .rdAudioOut n ∧ s.outAudio[n] = none ∧ r = .unwrittenRead 0x18 (BitVec.ofNat 4 n)) ∨
      (i = .rdCvOut n ∧ s.outCv[n] = none ∧ r = .unwrittenRead 0x19 (BitVec.ofNat 4 n))) ∨
    (∃ k : Fin 6, i = .rdLed k ∧ s.outLed[k] = none ∧ r = .unwrittenRead 0x1B (BitVec.ofNat 4 k))

/-- R233 (D10, D20): a read-back of a cell never written raises UnwrittenRead and changes nothing else. -/
def Obligations.UnwrittenReadBackFaults : Prop :=
  ∀ (s : State) (n : Fin 2) (k : Fin 6),
    (s.outAudio[n] = none →
      exec (.rdAudioOut n) s = .next { s with fault := some (.unwrittenRead 0x18 (BitVec.ofNat 4 n)) }) ∧
    (s.outCv[n] = none →
      exec (.rdCvOut n) s = .next { s with fault := some (.unwrittenRead 0x19 (BitVec.ofNat 4 n)) }) ∧
    (s.outLed[k] = none →
      exec (.rdLed k) s = .next { s with fault := some (.unwrittenRead 0x1B (BitVec.ofNat 4 k)) })

/-- R234 (D18): after CONVERT_PULSES a read or write of a pulse output raises PulseRetired and changes nothing else. -/
def Obligations.RetiredPulseOutputFaults : Prop :=
  ∀ (s : State) (n : Fin 2) (b : Bool), s.pulsesRetired = true →
    exec (.wrPulseOut n b) s = .next { s with fault := some (.pulseRetired 0x12 (BitVec.ofNat 4 n)) } ∧
      exec (.rdPulseOut n) s = .next { s with fault := some (.pulseRetired 0x1A (BitVec.ofNat 4 n)) }

/-- R59 (inferred): commands are taken one at a time in the order the host issued them (the list is the model's, assumption 3). -/
def Obligations.CommandsAreTakenInOrder : Prop :=
  ∀ s t : State, step s = .next t → t.commands = s.commands.tail

/-! ### MuxScanner and SmoothingFilter -/

/-- R100, R23, R25 (D3 to D6; which tie draw serves which slot, tieA or tieB, is assumption 12): UPDATE advances the phase by one modulo 4, sets both select lines to it, and smooths the two
samples, inverted where MUX_INV says so, into the slots `4 + p` and `2 + p[0]` of the new phase; no other slot
and no other cell changes. -/
def Obligations.UpdateServicesTheNewPhase : Prop :=
  ∀ s : State, ∃ t, exec .update s = .next t ∧
    t = { s with phase := t.phase, muxSel := t.muxSel, chan := t.chan, result := none } ∧
    t.phase.toNat = (s.phase.toNat + 1) % 4 ∧ t.muxSel = t.phase ∧
    ∀ c : Fin 8, t.chan[c] =
      if c.val = 4 + t.phase.toNat then
        smooth s.cfg s.draws.tieA s.chan[c]
          (if muxInvAt s.cfg c then 65535#16 - s.draws.adcMuxA else s.draws.adcMuxA)
      else if c.val = 2 + t.phase.toNat % 2 then
        smooth s.cfg s.draws.tieB s.chan[c]
          (if muxInvAt s.cfg c then 65535#16 - s.draws.adcMuxB else s.draws.adcMuxB)
      else s.chan[c]

/-- R101 (D7): the smoothed value is a nearest integer to `s·old + (1 - s)·raw`, for every admitted SMOOTH_S, and at an exact
half under the draw either neighbour, as the draw says. -/
def Obligations.SmoothRoundsToNearest : Prop :=
  ∀ (c : Config) (up : Bool) (old raw : U16), c.WellFormed →
    let n := c.smoothNum * old.toNat + (c.smoothDen - c.smoothNum) * raw.toNat
    let r := (smooth c up old raw).toNat
    2 * (c.smoothDen * r) ≤ 2 * n + c.smoothDen ∧ 2 * n ≤ 2 * (c.smoothDen * r) + c.smoothDen ∧
      (c.smoothTie = .draw → 2 * (n % c.smoothDen) = c.smoothDen → r = n / c.smoothDen + up.toNat)

/-- R103 (inferred): the range law, for every admitted SMOOTH_S and every choice at ties. -/
def Obligations.SmoothStaysBetweenOldAndRaw : Prop :=
  ∀ (c : Config) (up : Bool) (old raw : U16), c.WellFormed →
    min old.toNat raw.toNat ≤ (smooth c up old raw).toNat ∧ (smooth c up old raw).toNat ≤ max old.toNat raw.toNat

/-- R104 (inferred), R265 (inferred): with the default factor ten services with a constant sample bring any slot value to the sample, whatever is
drawn at the ties, and it stays there. -/
def Obligations.SmoothConvergesWithinTenServices : Prop :=
  ∀ (c : Config) (ups : List Bool) (old target : U16), c.smoothNum = 3 → c.smoothDen = 10 → 10 ≤ ups.length →
    ups.foldl (fun v up => smooth c up v target) old = target

/-- R102, R101 (D22): F_SMOOTH returns the rounding of the convex combination of its operands and writes nothing else. -/
def Obligations.SmoothCommandReturnsTheRounding : Prop :=
  ∀ (s : State) (old raw : U16), ∃ r : U16,
    exec (.fSmooth old raw) s = .next { s with result := some r } ∧
      (s.cfg.WellFormed →
        let n := s.cfg.smoothNum * old.toNat + (s.cfg.smoothDen - s.cfg.smoothNum) * raw.toNat
        2 * (s.cfg.smoothDen * r.toNat) ≤ 2 * n + s.cfg.smoothDen ∧
          2 * n ≤ 2 * (s.cfg.smoothDen * r.toNat) + s.cfg.smoothDen)

/-- R24: "after N calls to `update()` from a fresh instance, phase = N mod 4, for all N ≥ 0". -/
def Obligations.PhaseAfterNUpdatesFromReset : Prop :=
  State.reset.phase = 0 ∧
    ∀ N : Nat, ∃ t, Completes N { State.reset with commands := List.replicate N updateWord } t ∧ t.phase.toNat = N % 4

/-- R60: every step leaves the phase or advances it by exactly one, and it advances exactly when the command is UPDATE. -/
def Obligations.PhaseAdvancesOnlyWithUpdate : Prop :=
  ∀ s t : State, step s = .next t →
    t.phase = if s.commands.head? = some updateWord then s.phase + 1 else s.phase

/-- R105 (inferred), R240: over any run of any commands, from any state, the phase counts the UPDATE commands modulo 4. -/
def Obligations.PhaseCountsUpdateCommands : Prop :=
  ∀ (s t : State), steps s.commands.length s = .next t →
    t.phase = s.phase + BitVec.ofNat 2 (s.commands.count updateWord)

/-- R107 (inferred), R100 (D3 to D6; which tie draw serves which slot is assumption 12): four UPDATE commands in a row service each of slots 4 to 7 once and each of slots 2 and 3 twice, each with the
sample of its own command, whatever the phase they start from, and return to that phase. -/
def Obligations.FourUpdatesServiceEverySlot : Prop :=
  ∀ (s : State) (d : Nat → Draws), s.Running → s.commands = List.replicate 4 updateWord →
    s.inputs = [d 0, d 1, d 2, d 3] →
    ∃ t, Completes 4 s t ∧ t.phase = s.phase ∧
      (∀ (j : Nat) (c : Fin 8), j < 4 → c.val = 4 + (s.phase.toNat + 1 + j) % 4 →
        t.chan[c] = smooth s.cfg (d j).tieA s.chan[c] (muxSample s.cfg c (d j).adcMuxA)) ∧
      (∀ (j : Nat) (c : Fin 8), j < 2 → c.val = 2 + (s.phase.toNat + 1 + j) % 2 →
        t.chan[c] = smooth s.cfg (d (j + 2)).tieB
          (smooth s.cfg (d j).tieB s.chan[c] (muxSample s.cfg c (d j).adcMuxB)) (muxSample s.cfg c (d (j + 2)).adcMuxB)) ∧
      ∀ c : Fin 8, c.val < 2 → t.chan[c] = s.chan[c]

/-- R202, R104, R107 (all inferred): with the default factor and constant samples on the two mux buses, forty UPDATE commands or more bring
every mux slot to its sample (inverted where MUX_INV says so), and with MUX_INV true for a CV slot the CV
input then reads the raw sample itself, the "net non-inversion" of the source. -/
def Obligations.MuxInputsConverge : Prop :=
  ∀ (s : State) (N : Nat) (ra rb : U16), s.Running → s.cfg.smoothNum = 3 → s.cfg.smoothDen = 10 → 40 ≤ N →
    s.commands = List.replicate N updateWord → s.inputs.length = N →
    (∀ d ∈ s.inputs, d.adcMuxA = ra ∧ d.adcMuxB = rb) →
    ∃ t, Completes N s t ∧
      (∀ c : Fin 8, 4 ≤ c.val → t.chan[c] = muxSample s.cfg c ra) ∧
      (∀ c : Fin 8, 2 ≤ c.val → c.val < 4 → t.chan[c] = muxSample s.cfg c rb) ∧
      ∀ n : Fin 2, muxInvAt s.cfg (cvSlot n) = true → exec (.rdCvIn n) t = .next { t with result := some rb }

/-- R22 (inferred, D25), R25 (D4), R203: no command but UPDATE writes ChannelTable, the phase or the select lines. -/
def Obligations.OnlyUpdateWritesTheScanner : Prop :=
  ∀ (i : Instr) (s t : State), i ≠ .update → exec i s = .next t →
    t.chan = s.chan ∧ t.phase = s.phase ∧ t.muxSel = s.muxSel

/-! ### ValueScaler and GammaCorrector -/

/-- R120: F_DAC_SCALE returns `4095 - floor(v/16)`, which is in [0, 4095] and never increases with v, and writes
nothing else. -/
def Obligations.DacScaleCommandReturnsTheCode : Prop :=
  (∀ (s : State) (v : U16), decode (Command.toWord ⟨0x31, 0, 0, v, 0⟩) = .ok (.fDacScale v) ∧ ∃ r : U16,
    exec (.fDacScale v) s = .next { s with result := some r } ∧ r.toNat = 4095 - v.toNat / 16 ∧ r.toNat ≤ 4095) ∧
  (∀ v : U16, (dacScale v).toNat = 4095 - v.toNat / 16) ∧
  ∀ v v' : U16, v.toNat ≤ v'.toNat → (dacScale v').toNat ≤ (dacScale v).toNat

/-- R121 (inferred): DacScale is a bijection from the blocks of 16 onto the codes. -/
def Obligations.DacScaleIsABijectionOfBlocks : Prop :=
  (∀ v v' : U16, dacScale v = dacScale v' ↔ v.toNat / 16 = v'.toNat / 16) ∧
    ∀ x : U12, ∃ v : U16, dacScale v = x ∧ v.toNat / 16 = 4095 - x.toNat

/-- R122: F_PWM_SCALE returns `65535 - v`, losing nothing, and writes nothing else. -/
def Obligations.PwmScaleCommandReturnsTheDuty : Prop :=
  (∀ (s : State) (v : U16), decode (Command.toWord ⟨0x32, 0, 0, v, 0⟩) = .ok (.fPwmScale v) ∧ ∃ r : U16,
    exec (.fPwmScale v) s = .next { s with result := some r } ∧ r = pwmScale v ∧
      r.toNat = 65535 - min (max v.toNat 0) 65535 ∧ r.toNat = 65535 - v.toNat) ∧
  ∀ v v' : U16, pwmScale v = pwmScale v' → v = v'

/-- R123, R124 (inferred): F_PWM_DECODE returns `65535 - d`, and decoding the duty F_PWM_SCALE returns gives the value back. -/
def Obligations.PwmRoundTripIsExact : Prop :=
  ∀ (s : State) (v : U16),
    (∃ r : U16, exec (.fPwmDecode v) s = .next { s with result := some r } ∧ r.toNat = 65535 - v.toNat) ∧
    ∃ d : U16, exec (.fPwmScale v) s = .next { s with result := some d } ∧
      exec (.fPwmDecode d) { s with result := some d } = .next { s with result := some v }

/-- R125: F_IN_INVERT returns `65535 - r`, its own inverse, and writes nothing else. -/
def Obligations.InInvertCommandReturnsTheInverse : Prop :=
  ∀ (s : State) (r : U16), decode (Command.toWord ⟨0x34, 0, 0, r, 0⟩) = .ok (.fInInvert r) ∧ ∃ v : U16,
    exec (.fInInvert r) s = .next { s with result := some v } ∧ v = inInvert r ∧ v.toNat = 65535 - r.toNat ∧
      inInvert v = r

/-- R127, R126: F_RECT returns 0 up to 32768 and `(r - 32768)·2` above it, an even value of at most 65534, and writes
nothing else. -/
def Obligations.RectCommandReturnsTheRectifiedValue : Prop :=
  ∀ (s : State) (r : U16), ∃ v : U16,
    exec (.fRect r) s = .next { s with result := some v } ∧
      (r.toNat ≤ 32768 → v.toNat = 0) ∧ (32768 < r.toNat → v.toNat = (r.toNat - 32768) * 2) ∧
      v.toNat ≤ 65534 ∧ v.toNat % 2 = 0

/-- R128: F_GAMMA returns `floor(x²/65535)`, the square exact and below 2³², and writes nothing else. -/
def Obligations.GammaCommandReturnsTheCurve : Prop :=
  ∀ (s : State) (x : U16), decode (Command.toWord ⟨0x36, 0, 0, x, 0⟩) = .ok (.fGamma x) ∧ x.toNat ^ 2 < 2 ^ 32 ∧ ∃ v : U16,
    exec (.fGamma x) s = .next { s with result := some v } ∧ v = gamma x ∧
      v.toNat = min (max (x.toNat ^ 2 / 65535) 0) 65535 ∧ v.toNat = x.toNat ^ 2 / 65535

/-- R129: gamma fixes both ends and never decreases. -/
def Obligations.GammaIsMonotonicAndFixesTheEnds : Prop :=
  gamma 0 = 0 ∧ gamma 65535 = 65535 ∧ ∀ x y : U16, x.toNat ≤ y.toNat → (gamma x).toNat ≤ (gamma y).toNat

/-! ### DacDriver -/

/-- R150, R152 (D14), R153, R54: with the bus free DAC_WRITE sends the frame's high byte and then its low byte, records the code,
leaves the chip select high and the lock free, returns nothing, and changes nothing else. -/
def Obligations.DacWriteSendsTheFrame : Prop :=
  ∀ (s : State) (ch : Fin 2) (code : U12), s.BusFree →
    ∃ hi lo : Byte,
      hi.toNat = (s.cfg.dacCfg[ch] ||| code.zeroExtend 16).toNat / 256 ∧
      lo.toNat = (s.cfg.dacCfg[ch] ||| code.zeroExtend 16).toNat % 256 ∧
      exec (.dacWrite ch code) s = .next { s with
        dacCsN := true, spiTrace := s.spiTrace ++ [hi, lo], dacCode := s.dacCode.set ch (some code), result := none }

/-- R194, R153, R120 (D13): with the bus free WR_AUDIO_OUT records the logical value and sends the frame of its code on the
output's own channel. -/
def Obligations.AudioOutSendsTheScaledCode : Prop :=
  ∀ (s : State) (n : Fin 2) (v : U16), s.BusFree →
    ∃ (code : U12) (hi lo : Byte),
      code.toNat = 4095 - v.toNat / 16 ∧
      hi.toNat = (s.cfg.dacCfg[n] ||| code.zeroExtend 16).toNat / 256 ∧
      lo.toNat = (s.cfg.dacCfg[n] ||| code.zeroExtend 16).toNat % 256 ∧
      exec (.wrAudioOut n v) s = .next { s with
        outAudio := s.outAudio.set n (some v), dacCsN := true, spiTrace := s.spiTrace ++ [hi, lo],
        dacCode := s.dacCode.set n (some code), result := none }

/-- R154, with R152 (D14; assumption 15) for when the attempt fails and R194 (D13), R120 for WR_AUDIO_OUT's channel and code:
on a failed acquisition the write is skipped entirely and reported; the facade's bookkeeping still happens, and
nothing else does. -/
def Obligations.ContendedTransferIsSkippedAndLogged : Prop :=
  ∀ (s : State) (ch : Fin 2) (code : U12) (v : U16), s.BusContended →
    exec (.dacWrite ch code) s = .next { s with
      eventTrace := s.eventTrace ++ [.dacSkip ch code], result := none } ∧
    ∃ x : U12, x.toNat = 4095 - v.toNat / 16 ∧
      exec (.wrAudioOut ch v) s = .next { s with
        outAudio := s.outAudio.set ch (some v), eventTrace := s.eventTrace ++ [.dacSkip ch x], result := none }

/-- R151: F_DAC_FRAME returns `DAC_CFG[ch] | code`, with the code in bits 11:0 and the header in bits 15:12 for every admitted
header, and writes nothing else; the words of its OPC that are legal are those rule R73 admits. -/
def Obligations.FrameIsHeaderOrCode : Prop :=
  (∀ (s : State) (ch : Fin 2) (code : U12), ∃ f : U16,
    exec (.fDacFrame ch code) s = .next { s with result := some f } ∧ f = s.cfg.dacCfg[ch] ||| code.zeroExtend 16 ∧
      (s.cfg.WellFormed → f.toNat % 4096 = code.toNat ∧ f.toNat / 4096 = s.cfg.dacCfg[ch].toNat / 4096)) ∧
  ∀ c : Command, c.opc = 0x37 →
    ((∃ i, decode c.toWord = .ok i) ↔ c.idx.toNat < 2 ∧ c.rsv = 0 ∧ c.a.toNat < 4096 ∧ c.b = 0) ∧
    ∀ i, decode c.toWord = .ok i → ∃ (ch : Fin 2) (code : U12), ch.val = c.idx.toNat ∧ code.toNat = c.a.toNat ∧ i = .fDacFrame ch code

/-- R156: only the DacDriver's commands, DAC_WRITE and WR_AUDIO_OUT, write the serial bus, its lock, the DAC's shadow code or
the event trace. -/
def Obligations.OnlyTheDacDriverUsesTheBus : Prop :=
  ∀ (i : Instr) (s t : State), (∀ ch code, i ≠ .dacWrite ch code) → (∀ n v, i ≠ .wrAudioOut n v) → exec i s = .next t →
    t.dacCsN = s.dacCsN ∧ t.spiTrace = s.spiTrace ∧ t.dacLock = s.dacLock ∧ t.dacCode = s.dacCode ∧ t.eventTrace = s.eventTrace

/-- R33, R35 (D26), R153, R154: a step sends no byte and reports nothing, or sends exactly two bytes, or reports exactly one
event; the traces only grow at their ends. -/
def Obligations.TracesOnlyGrow : Prop :=
  ∀ s t : State, step s = .next t →
    (t.spiTrace = s.spiTrace ∧ t.eventTrace = s.eventTrace) ∨
      (∃ hi lo, t.spiTrace = s.spiTrace ++ [hi, lo] ∧ t.eventTrace = s.eventTrace) ∨
      ∃ e, t.spiTrace = s.spiTrace ∧ t.eventTrace = s.eventTrace ++ [e]

/-- R54 (D15): the bits of a byte go out from its bit 7 down under msbFirst and from its bit 0 up under lsbFirst. SPI_BIT_ORDER
is OPEN in the spec; the statement holds for both of its values. -/
def Obligations.WireBitsFollowTheBitOrder : Prop :=
  ∀ (x : Byte) (i : Nat), i < 8 →
    (wireBits .lsbFirst x)[i]? = some (x.getLsbD i) ∧ (wireBits .msbFirst x)[i]? = some (x.getLsbD (7 - i))

/-! ### DigitalIOAdapter -/

/-- R170: both directions are active-low at the pins: a high input line reads false, and a true output drives its line low. -/
def Obligations.PulseLinesAreActiveLow : Prop :=
  ∀ (s : State) (n : Fin 2) (b : Bool),
    exec (.rdPulseIn n) s = .next { s with result := some (if s.draws.pulseInLevel[n] then 0 else 1) } ∧
    (s.pulsesRetired = false → ∃ t,
      exec (.wrPulseOut n b) s = .next t ∧
      t = { s with
        outPulse := s.outPulse.set n b, pulseOutLevel := s.pulseOutLevel.set n (.driven !b), result := none } ∧
      t.observePulsePin n = (!b, t))

/-- R173 (D10): RD_PULSE_OUT returns the last logical value written, as 0 or 1, while the lines are the block's. -/
def Obligations.PulseOutReadsBackItsLogicalValue : Prop :=
  ∀ (s : State) (n : Fin 2), s.pulsesRetired = false →
    exec (.rdPulseOut n) s = .next { s with result := some (if s.outPulse[n] then 1 else 0) }

/-- R174 (D18): CONVERT_PULSES retires the outputs and releases both lines and changes nothing else, so that a pin can be observed
at any level, whatever the block has done; a second one changes nothing. How draws reach an observation is assumption 18. -/
def Obligations.ConvertPulsesReleasesBothLines : Prop :=
  ∀ s : State, ∃ t, exec .convertPulses s = .next t ∧
    t = { s with pulsesRetired := true, pulseOutLevel := #v[.released, .released], result := none } ∧
    (∀ (n : Fin 2) (b : Bool) (bs : List Bool),
      { t with rendererLevels := b :: bs }.observePulsePin n =
        (b, { t with rendererLevels := bs, pinTick := t.pinTick + 1 })) ∧ exec .convertPulses t = .next t

/-- R37: retirement is false at reset, CONVERT_PULSES sets it, no other command sets it, and nothing clears it; while it
holds no read or write of a pulse output completes (R234's reading of "unavailable", D18). -/
def Obligations.RetirementIsPermanent : Prop :=
  State.reset.pulsesRetired = false ∧
  (∀ s t : State, step s = .next t → s.pulsesRetired = true → t.pulsesRetired = true) ∧
  (∀ (s t : State) (n : Fin 2), s.pulsesRetired = true →
    (∀ b, exec (.wrPulseOut n b) s = .next t → ¬ t.Running) ∧ (exec (.rdPulseOut n) s = .next t → ¬ t.Running)) ∧
  ∀ (i : Instr) (s t : State), exec i s = .next t → t.pulsesRetired = (s.pulsesRetired || i = .convertPulses)

/-! ### ComputerFacade -/

/-- R190 (D8), R125: RD_AUDIO_IN returns `65535 - r` for its own input's fresh sample, unsmoothed, and writes nothing else. -/
def Obligations.AudioInReturnsTheInvertedSample : Prop :=
  ∀ (s : State) (n : Fin 2), ∃ r : U16,
    exec (.rdAudioIn n) s = .next { s with result := some r } ∧ r.toNat = 65535 - s.draws.adcAudio[n].toNat

/-- R191, R192, R193 (D9), R200, R201 (D23): the reads of the scanner's state return slot 2 + n inverted, slot 4 + n, slot 7,
slot i and the phase, and write nothing else. -/
def Obligations.ScannerReadsReturnTheirCell : Prop :=
  ∀ (s : State) (n : Fin 2) (k : Fin 3) (i : Fin 8),
    (∃ r : U16, exec (.rdCvIn n) s = .next { s with result := some r } ∧ r.toNat = 65535 - (s.chan[2 + n.val]).toNat) ∧
    exec (.rdKnob k) s = .next { s with result := some s.chan[4 + k.val] } ∧
    exec .rdSwitch s = .next { s with result := some s.chan[7] } ∧
    exec (.rdChan i) s = .next { s with result := some s.chan[i] } ∧
    ∃ r : U16, exec .rdPhase s = .next { s with result := some r } ∧ r.toNat = s.phase.toNat

/-- R195, R122: WR_CV_OUT records the logical value and sets the duty `65535 - v`, and changes nothing else. -/
def Obligations.CvOutSetsTheInvertedDuty : Prop :=
  ∀ (s : State) (n : Fin 2) (v : U16), ∃ d : U16, d.toNat = 65535 - v.toNat ∧
    exec (.wrCvOut n v) s = .next { s with
      outCv := s.outCv.set n (some v), cvPwm := s.cvPwm.set n d, result := none }

/-- R196, R128 (D16): WR_LED records the brightness and sets the duty to its gamma, inverted where LED_INVERT says so, and
changes nothing else. -/
def Obligations.LedSetsTheGammaDuty : Prop :=
  ∀ (s : State) (k : Fin 6) (x : U16), ∃ d : U16,
    d.toNat = (if s.cfg.ledInvert then 65535 - x.toNat ^ 2 / 65535 else x.toNat ^ 2 / 65535) ∧
    exec (.wrLed k x) s = .next { s with
      outLed := s.outLed.set k (some x), ledPwm := s.ledPwm.set k d, result := none }

/-- R197, R198, R199 (D10): a read-back of a written cell returns the value it holds and writes nothing else. -/
def Obligations.ReadBacksReturnTheWrittenCell : Prop :=
  ∀ (s : State) (n : Fin 2) (k : Fin 6) (v : U16),
    (s.outAudio[n] = some v → exec (.rdAudioOut n) s = .next { s with result := some v }) ∧
    (s.outCv[n] = some v → exec (.rdCvOut n) s = .next { s with result := some v }) ∧
    (s.outLed[k] = some v → exec (.rdLed k) s = .next { s with result := some v })

/-- R58, R154, R197 to R199 and R173 (D10): what a write records the very next read-back returns, even where the DAC transfer was
skipped. -/
def Obligations.WrittenValueIsReadBack : Prop :=
  ∀ (s : State) (n : Fin 2) (k : Fin 6) (v : U16) (b : Bool),
    (∃ t, exec (.wrAudioOut n v) s = .next t ∧ exec (.rdAudioOut n) t = .next { t with result := some v }) ∧
    (∃ t, exec (.wrCvOut n v) s = .next t ∧ exec (.rdCvOut n) t = .next { t with result := some v }) ∧
    (∃ t, exec (.wrLed k v) s = .next t ∧ exec (.rdLed k) t = .next { t with result := some v }) ∧
    (s.pulsesRetired = false → ∃ t, exec (.wrPulseOut n b) s = .next t ∧
      exec (.rdPulseOut n) t = .next { t with result := some (if b then 1 else 0) })

/-- R204: only WR_AUDIO_OUT, WR_CV_OUT, WR_PULSE_OUT and WR_LED write OutputState, one cell each, and what OutputState becomes
does not depend on any port, draw or other state. -/
def Obligations.OutputStateIsWrittenOnlyByItsWriters : Prop :=
  (∀ (i : Instr) (s t : State), exec i s = .next t →
    (∀ n : Fin 2, (∀ v, i ≠ .wrAudioOut n v) → t.outAudio[n] = s.outAudio[n]) ∧
    (∀ n : Fin 2, (∀ v, i ≠ .wrCvOut n v) → t.outCv[n] = s.outCv[n]) ∧
    (∀ n : Fin 2, (∀ b, i ≠ .wrPulseOut n b) → t.outPulse[n] = s.outPulse[n]) ∧
    (∀ k : Fin 6, (∀ x, i ≠ .wrLed k x) → t.outLed[k] = s.outLed[k])) ∧
  ∀ (i : Instr) (s s' t t' : State), OutputsAgree s s' → exec i s = .next t → exec i s' = .next t' → OutputsAgree t t'

/-- R30, R31, R32, R204: each PWM duty and pulse line is changed only by its own output's write, the lines by CONVERT_PULSES
too. -/
def Obligations.OutputPortsChangeOnlyWithTheirCommand : Prop :=
  ∀ (i : Instr) (s t : State), exec i s = .next t →
    (∀ n : Fin 2, (∀ v, i ≠ .wrCvOut n v) → t.cvPwm[n] = s.cvPwm[n]) ∧
    (∀ k : Fin 6, (∀ x, i ≠ .wrLed k x) → t.ledPwm[k] = s.ledPwm[k]) ∧
    (∀ n : Fin 2, (∀ b, i ≠ .wrPulseOut n b) → i ≠ .convertPulses → t.pulseOutLevel[n] = s.pulseOutLevel[n])

/-- R57 (D8, D28): the reads of state write nothing but the result port or the fault record, so a second one right after returns the
same. -/
def Obligations.StateReadsAreIdempotent : Prop :=
  ∀ (i : Instr) (s t : State), isStateRead i → exec i s = .next t →
    t = { s with result := t.result, fault := t.fault } ∧ exec i t = .next t

/-! ### Reset and the invariant -/

/-- R260 (D19, D20): the reset values the spec gives; what it leaves unspecified is not named. -/
def Obligations.ResetLeavesTheStatedValues : Prop :=
  (∀ c : Fin 8, State.reset.chan[c] = 0) ∧ State.reset.phase = 0 ∧
    (∀ n : Fin 2, State.reset.outAudio[n] = none ∧ State.reset.outCv[n] = none ∧ State.reset.outPulse[n] = false ∧
      State.reset.pulseOutLevel[n] = .driven true ∧ State.reset.dacCode[n] = none) ∧
    (∀ k : Fin 6, State.reset.outLed[k] = none) ∧ State.reset.dacCsN = true ∧ State.reset.spiTrace = [] ∧
    State.reset.eventTrace = [] ∧ State.reset.dacLock = false ∧ State.reset.pulsesRetired = false ∧
    State.reset.fault = none ∧ State.reset.result = none

/-- The invariant holds at reset, whatever legal header channel 1 has (assumption 9). -/
def Obligations.ResetMeetsTheInvariant : Prop := State.reset.Inv

/-- R36, R22 (D25), R33 (D26), R155 (D12), R170, R174 (D18), R195, R196 (D16), R198: every step from every state that meets the invariant keeps it: the lock
is free and the chip select high at every command boundary, slots 0 and 1 stay 0, and every port agrees with
the logical value last written. -/
def Obligations.EveryStepKeepsTheInvariant : Prop := ∀ s t : State, s.Inv → step s = .next t → t.Inv

/-- R42: no step changes the configuration the block was built with (carried in State, assumption 5). -/
def Obligations.ConfigurationIsFixed : Prop := ∀ s t : State, step s = .next t → t.cfg = s.cfg

/-! ### The released pins -/

/-- R174 (D18): a released pin is a draw at every observation, of a stopped block too: the script's next level, or the free level
of its own index, so two observations in a row, of one pin or of both, take two draws; a driven pin is
observed as driven. Script and index are the model's own (assumption 18). -/
def Obligations.EveryObservationOfAReleasedPinIsItsOwnDraw : Prop :=
  ∀ (s : State) (n : Fin 2),
    (∀ high, s.pulseOutLevel[n] = .driven high → s.observePulsePin n = (high, s)) ∧
    (s.pulseOutLevel[n] = .released →
      (∀ b bs, s.rendererLevels = b :: bs →
        s.observePulsePin n = (b, { s with rendererLevels := bs, pinTick := s.pinTick + 1 })) ∧
      (s.rendererLevels = [] →
        s.observePulsePin n = (Config.freePinLevel s.pinTick, { s with pinTick := s.pinTick + 1 })) ∧
      ∀ (m : Fin 2) (b b' : Bool) (bs : List Bool), s.pulseOutLevel[m] = .released → s.rendererLevels = b :: b' :: bs →
        (s.observePulsePin n).1 = b ∧ ((s.observePulsePin n).2.observePulsePin m).1 = b')
end

