-- ==== Sys2Proof/Laws/State.lean ====
section
/-! SUPPORT. What each named update does to each field of the state: one lemma per field per update, so that no later
proof unfolds an update. -/

namespace Sys2Proof.Machine

variable (s : State)

/-! `setPhase` writes phase and nothing else. -/

@[simp] theorem State.setPhase_chan (p : BitVec 2) : (s.setPhase p).chan = s.chan := rfl
@[simp] theorem State.setPhase_phase (p : BitVec 2) : (s.setPhase p).phase = p := rfl
@[simp] theorem State.setPhase_muxSel (p : BitVec 2) : (s.setPhase p).muxSel = s.muxSel := rfl
@[simp] theorem State.setPhase_outAudio (p : BitVec 2) : (s.setPhase p).outAudio = s.outAudio := rfl
@[simp] theorem State.setPhase_outCv (p : BitVec 2) : (s.setPhase p).outCv = s.outCv := rfl
@[simp] theorem State.setPhase_outPulse (p : BitVec 2) : (s.setPhase p).outPulse = s.outPulse := rfl
@[simp] theorem State.setPhase_outLed (p : BitVec 2) : (s.setPhase p).outLed = s.outLed := rfl
@[simp] theorem State.setPhase_cvPwm (p : BitVec 2) : (s.setPhase p).cvPwm = s.cvPwm := rfl
@[simp] theorem State.setPhase_ledPwm (p : BitVec 2) : (s.setPhase p).ledPwm = s.ledPwm := rfl
@[simp] theorem State.setPhase_pulseOutLevel (p : BitVec 2) : (s.setPhase p).pulseOutLevel = s.pulseOutLevel := rfl
@[simp] theorem State.setPhase_dacCsN (p : BitVec 2) : (s.setPhase p).dacCsN = s.dacCsN := rfl
@[simp] theorem State.setPhase_spiTrace (p : BitVec 2) : (s.setPhase p).spiTrace = s.spiTrace := rfl
@[simp] theorem State.setPhase_dacCode (p : BitVec 2) : (s.setPhase p).dacCode = s.dacCode := rfl
@[simp] theorem State.setPhase_eventTrace (p : BitVec 2) : (s.setPhase p).eventTrace = s.eventTrace := rfl
@[simp] theorem State.setPhase_dacLock (p : BitVec 2) : (s.setPhase p).dacLock = s.dacLock := rfl
@[simp] theorem State.setPhase_pulsesRetired (p : BitVec 2) : (s.setPhase p).pulsesRetired = s.pulsesRetired := rfl
@[simp] theorem State.setPhase_fault (p : BitVec 2) : (s.setPhase p).fault = s.fault := rfl
@[simp] theorem State.setPhase_result (p : BitVec 2) : (s.setPhase p).result = s.result := rfl
@[simp] theorem State.setPhase_cfg (p : BitVec 2) : (s.setPhase p).cfg = s.cfg := rfl
@[simp] theorem State.setPhase_commands (p : BitVec 2) : (s.setPhase p).commands = s.commands := rfl
@[simp] theorem State.setPhase_draws (p : BitVec 2) : (s.setPhase p).draws = s.draws := rfl
@[simp] theorem State.setPhase_inputs (p : BitVec 2) : (s.setPhase p).inputs = s.inputs := rfl
@[simp] theorem State.setPhase_tick (p : BitVec 2) : (s.setPhase p).tick = s.tick := rfl
@[simp] theorem State.setPhase_rendererLevels (p : BitVec 2) : (s.setPhase p).rendererLevels = s.rendererLevels := rfl
@[simp] theorem State.setPhase_pinTick (p : BitVec 2) : (s.setPhase p).pinTick = s.pinTick := rfl

/-! `setMuxSel` writes muxSel and nothing else. -/

@[simp] theorem State.setMuxSel_chan (p : BitVec 2) : (s.setMuxSel p).chan = s.chan := rfl
@[simp] theorem State.setMuxSel_phase (p : BitVec 2) : (s.setMuxSel p).phase = s.phase := rfl
@[simp] theorem State.setMuxSel_muxSel (p : BitVec 2) : (s.setMuxSel p).muxSel = p := rfl
@[simp] theorem State.setMuxSel_outAudio (p : BitVec 2) : (s.setMuxSel p).outAudio = s.outAudio := rfl
@[simp] theorem State.setMuxSel_outCv (p : BitVec 2) : (s.setMuxSel p).outCv = s.outCv := rfl
@[simp] theorem State.setMuxSel_outPulse (p : BitVec 2) : (s.setMuxSel p).outPulse = s.outPulse := rfl
@[simp] theorem State.setMuxSel_outLed (p : BitVec 2) : (s.setMuxSel p).outLed = s.outLed := rfl
@[simp] theorem State.setMuxSel_cvPwm (p : BitVec 2) : (s.setMuxSel p).cvPwm = s.cvPwm := rfl
@[simp] theorem State.setMuxSel_ledPwm (p : BitVec 2) : (s.setMuxSel p).ledPwm = s.ledPwm := rfl
@[simp] theorem State.setMuxSel_pulseOutLevel (p : BitVec 2) : (s.setMuxSel p).pulseOutLevel = s.pulseOutLevel := rfl
@[simp] theorem State.setMuxSel_dacCsN (p : BitVec 2) : (s.setMuxSel p).dacCsN = s.dacCsN := rfl
@[simp] theorem State.setMuxSel_spiTrace (p : BitVec 2) : (s.setMuxSel p).spiTrace = s.spiTrace := rfl
@[simp] theorem State.setMuxSel_dacCode (p : BitVec 2) : (s.setMuxSel p).dacCode = s.dacCode := rfl
@[simp] theorem State.setMuxSel_eventTrace (p : BitVec 2) : (s.setMuxSel p).eventTrace = s.eventTrace := rfl
@[simp] theorem State.setMuxSel_dacLock (p : BitVec 2) : (s.setMuxSel p).dacLock = s.dacLock := rfl
@[simp] theorem State.setMuxSel_pulsesRetired (p : BitVec 2) : (s.setMuxSel p).pulsesRetired = s.pulsesRetired := rfl
@[simp] theorem State.setMuxSel_fault (p : BitVec 2) : (s.setMuxSel p).fault = s.fault := rfl
@[simp] theorem State.setMuxSel_result (p : BitVec 2) : (s.setMuxSel p).result = s.result := rfl
@[simp] theorem State.setMuxSel_cfg (p : BitVec 2) : (s.setMuxSel p).cfg = s.cfg := rfl
@[simp] theorem State.setMuxSel_commands (p : BitVec 2) : (s.setMuxSel p).commands = s.commands := rfl
@[simp] theorem State.setMuxSel_draws (p : BitVec 2) : (s.setMuxSel p).draws = s.draws := rfl
@[simp] theorem State.setMuxSel_inputs (p : BitVec 2) : (s.setMuxSel p).inputs = s.inputs := rfl
@[simp] theorem State.setMuxSel_tick (p : BitVec 2) : (s.setMuxSel p).tick = s.tick := rfl
@[simp] theorem State.setMuxSel_rendererLevels (p : BitVec 2) : (s.setMuxSel p).rendererLevels = s.rendererLevels := rfl
@[simp] theorem State.setMuxSel_pinTick (p : BitVec 2) : (s.setMuxSel p).pinTick = s.pinTick := rfl

/-! `setChan` writes chan and nothing else. -/

@[simp] theorem State.setChan_chan (c : Fin 8) (v : U16) : (s.setChan c v).chan = s.chan.set c v := rfl
@[simp] theorem State.setChan_phase (c : Fin 8) (v : U16) : (s.setChan c v).phase = s.phase := rfl
@[simp] theorem State.setChan_muxSel (c : Fin 8) (v : U16) : (s.setChan c v).muxSel = s.muxSel := rfl
@[simp] theorem State.setChan_outAudio (c : Fin 8) (v : U16) : (s.setChan c v).outAudio = s.outAudio := rfl
@[simp] theorem State.setChan_outCv (c : Fin 8) (v : U16) : (s.setChan c v).outCv = s.outCv := rfl
@[simp] theorem State.setChan_outPulse (c : Fin 8) (v : U16) : (s.setChan c v).outPulse = s.outPulse := rfl
@[simp] theorem State.setChan_outLed (c : Fin 8) (v : U16) : (s.setChan c v).outLed = s.outLed := rfl
@[simp] theorem State.setChan_cvPwm (c : Fin 8) (v : U16) : (s.setChan c v).cvPwm = s.cvPwm := rfl
@[simp] theorem State.setChan_ledPwm (c : Fin 8) (v : U16) : (s.setChan c v).ledPwm = s.ledPwm := rfl
@[simp] theorem State.setChan_pulseOutLevel (c : Fin 8) (v : U16) : (s.setChan c v).pulseOutLevel = s.pulseOutLevel := rfl
@[simp] theorem State.setChan_dacCsN (c : Fin 8) (v : U16) : (s.setChan c v).dacCsN = s.dacCsN := rfl
@[simp] theorem State.setChan_spiTrace (c : Fin 8) (v : U16) : (s.setChan c v).spiTrace = s.spiTrace := rfl
@[simp] theorem State.setChan_dacCode (c : Fin 8) (v : U16) : (s.setChan c v).dacCode = s.dacCode := rfl
@[simp] theorem State.setChan_eventTrace (c : Fin 8) (v : U16) : (s.setChan c v).eventTrace = s.eventTrace := rfl
@[simp] theorem State.setChan_dacLock (c : Fin 8) (v : U16) : (s.setChan c v).dacLock = s.dacLock := rfl
@[simp] theorem State.setChan_pulsesRetired (c : Fin 8) (v : U16) : (s.setChan c v).pulsesRetired = s.pulsesRetired := rfl
@[simp] theorem State.setChan_fault (c : Fin 8) (v : U16) : (s.setChan c v).fault = s.fault := rfl
@[simp] theorem State.setChan_result (c : Fin 8) (v : U16) : (s.setChan c v).result = s.result := rfl
@[simp] theorem State.setChan_cfg (c : Fin 8) (v : U16) : (s.setChan c v).cfg = s.cfg := rfl
@[simp] theorem State.setChan_commands (c : Fin 8) (v : U16) : (s.setChan c v).commands = s.commands := rfl
@[simp] theorem State.setChan_draws (c : Fin 8) (v : U16) : (s.setChan c v).draws = s.draws := rfl
@[simp] theorem State.setChan_inputs (c : Fin 8) (v : U16) : (s.setChan c v).inputs = s.inputs := rfl
@[simp] theorem State.setChan_tick (c : Fin 8) (v : U16) : (s.setChan c v).tick = s.tick := rfl
@[simp] theorem State.setChan_rendererLevels (c : Fin 8) (v : U16) : (s.setChan c v).rendererLevels = s.rendererLevels := rfl
@[simp] theorem State.setChan_pinTick (c : Fin 8) (v : U16) : (s.setChan c v).pinTick = s.pinTick := rfl

/-! `setOutAudio` writes outAudio and nothing else. -/

@[simp] theorem State.setOutAudio_chan (n : Fin 2) (v : U16) : (s.setOutAudio n v).chan = s.chan := rfl
@[simp] theorem State.setOutAudio_phase (n : Fin 2) (v : U16) : (s.setOutAudio n v).phase = s.phase := rfl
@[simp] theorem State.setOutAudio_muxSel (n : Fin 2) (v : U16) : (s.setOutAudio n v).muxSel = s.muxSel := rfl
@[simp] theorem State.setOutAudio_outAudio (n : Fin 2) (v : U16) : (s.setOutAudio n v).outAudio = s.outAudio.set n (some v) := rfl
@[simp] theorem State.setOutAudio_outCv (n : Fin 2) (v : U16) : (s.setOutAudio n v).outCv = s.outCv := rfl
@[simp] theorem State.setOutAudio_outPulse (n : Fin 2) (v : U16) : (s.setOutAudio n v).outPulse = s.outPulse := rfl
@[simp] theorem State.setOutAudio_outLed (n : Fin 2) (v : U16) : (s.setOutAudio n v).outLed = s.outLed := rfl
@[simp] theorem State.setOutAudio_cvPwm (n : Fin 2) (v : U16) : (s.setOutAudio n v).cvPwm = s.cvPwm := rfl
@[simp] theorem State.setOutAudio_ledPwm (n : Fin 2) (v : U16) : (s.setOutAudio n v).ledPwm = s.ledPwm := rfl
@[simp] theorem State.setOutAudio_pulseOutLevel (n : Fin 2) (v : U16) : (s.setOutAudio n v).pulseOutLevel = s.pulseOutLevel := rfl
@[simp] theorem State.setOutAudio_dacCsN (n : Fin 2) (v : U16) : (s.setOutAudio n v).dacCsN = s.dacCsN := rfl
@[simp] theorem State.setOutAudio_spiTrace (n : Fin 2) (v : U16) : (s.setOutAudio n v).spiTrace = s.spiTrace := rfl
@[simp] theorem State.setOutAudio_dacCode (n : Fin 2) (v : U16) : (s.setOutAudio n v).dacCode = s.dacCode := rfl
@[simp] theorem State.setOutAudio_eventTrace (n : Fin 2) (v : U16) : (s.setOutAudio n v).eventTrace = s.eventTrace := rfl
@[simp] theorem State.setOutAudio_dacLock (n : Fin 2) (v : U16) : (s.setOutAudio n v).dacLock = s.dacLock := rfl
@[simp] theorem State.setOutAudio_pulsesRetired (n : Fin 2) (v : U16) : (s.setOutAudio n v).pulsesRetired = s.pulsesRetired := rfl
@[simp] theorem State.setOutAudio_fault (n : Fin 2) (v : U16) : (s.setOutAudio n v).fault = s.fault := rfl
@[simp] theorem State.setOutAudio_result (n : Fin 2) (v : U16) : (s.setOutAudio n v).result = s.result := rfl
@[simp] theorem State.setOutAudio_cfg (n : Fin 2) (v : U16) : (s.setOutAudio n v).cfg = s.cfg := rfl
@[simp] theorem State.setOutAudio_commands (n : Fin 2) (v : U16) : (s.setOutAudio n v).commands = s.commands := rfl
@[simp] theorem State.setOutAudio_draws (n : Fin 2) (v : U16) : (s.setOutAudio n v).draws = s.draws := rfl
@[simp] theorem State.setOutAudio_inputs (n : Fin 2) (v : U16) : (s.setOutAudio n v).inputs = s.inputs := rfl
@[simp] theorem State.setOutAudio_tick (n : Fin 2) (v : U16) : (s.setOutAudio n v).tick = s.tick := rfl
@[simp] theorem State.setOutAudio_rendererLevels (n : Fin 2) (v : U16) : (s.setOutAudio n v).rendererLevels = s.rendererLevels := rfl
@[simp] theorem State.setOutAudio_pinTick (n : Fin 2) (v : U16) : (s.setOutAudio n v).pinTick = s.pinTick := rfl

/-! `setOutCv` writes outCv and nothing else. -/

@[simp] theorem State.setOutCv_chan (n : Fin 2) (v : U16) : (s.setOutCv n v).chan = s.chan := rfl
@[simp] theorem State.setOutCv_phase (n : Fin 2) (v : U16) : (s.setOutCv n v).phase = s.phase := rfl
@[simp] theorem State.setOutCv_muxSel (n : Fin 2) (v : U16) : (s.setOutCv n v).muxSel = s.muxSel := rfl
@[simp] theorem State.setOutCv_outAudio (n : Fin 2) (v : U16) : (s.setOutCv n v).outAudio = s.outAudio := rfl
@[simp] theorem State.setOutCv_outCv (n : Fin 2) (v : U16) : (s.setOutCv n v).outCv = s.outCv.set n (some v) := rfl
@[simp] theorem State.setOutCv_outPulse (n : Fin 2) (v : U16) : (s.setOutCv n v).outPulse = s.outPulse := rfl
@[simp] theorem State.setOutCv_outLed (n : Fin 2) (v : U16) : (s.setOutCv n v).outLed = s.outLed := rfl
@[simp] theorem State.setOutCv_cvPwm (n : Fin 2) (v : U16) : (s.setOutCv n v).cvPwm = s.cvPwm := rfl
@[simp] theorem State.setOutCv_ledPwm (n : Fin 2) (v : U16) : (s.setOutCv n v).ledPwm = s.ledPwm := rfl
@[simp] theorem State.setOutCv_pulseOutLevel (n : Fin 2) (v : U16) : (s.setOutCv n v).pulseOutLevel = s.pulseOutLevel := rfl
@[simp] theorem State.setOutCv_dacCsN (n : Fin 2) (v : U16) : (s.setOutCv n v).dacCsN = s.dacCsN := rfl
@[simp] theorem State.setOutCv_spiTrace (n : Fin 2) (v : U16) : (s.setOutCv n v).spiTrace = s.spiTrace := rfl
@[simp] theorem State.setOutCv_dacCode (n : Fin 2) (v : U16) : (s.setOutCv n v).dacCode = s.dacCode := rfl
@[simp] theorem State.setOutCv_eventTrace (n : Fin 2) (v : U16) : (s.setOutCv n v).eventTrace = s.eventTrace := rfl
@[simp] theorem State.setOutCv_dacLock (n : Fin 2) (v : U16) : (s.setOutCv n v).dacLock = s.dacLock := rfl
@[simp] theorem State.setOutCv_pulsesRetired (n : Fin 2) (v : U16) : (s.setOutCv n v).pulsesRetired = s.pulsesRetired := rfl
@[simp] theorem State.setOutCv_fault (n : Fin 2) (v : U16) : (s.setOutCv n v).fault = s.fault := rfl
@[simp] theorem State.setOutCv_result (n : Fin 2) (v : U16) : (s.setOutCv n v).result = s.result := rfl
@[simp] theorem State.setOutCv_cfg (n : Fin 2) (v : U16) : (s.setOutCv n v).cfg = s.cfg := rfl
@[simp] theorem State.setOutCv_commands (n : Fin 2) (v : U16) : (s.setOutCv n v).commands = s.commands := rfl
@[simp] theorem State.setOutCv_draws (n : Fin 2) (v : U16) : (s.setOutCv n v).draws = s.draws := rfl
@[simp] theorem State.setOutCv_inputs (n : Fin 2) (v : U16) : (s.setOutCv n v).inputs = s.inputs := rfl
@[simp] theorem State.setOutCv_tick (n : Fin 2) (v : U16) : (s.setOutCv n v).tick = s.tick := rfl
@[simp] theorem State.setOutCv_rendererLevels (n : Fin 2) (v : U16) : (s.setOutCv n v).rendererLevels = s.rendererLevels := rfl
@[simp] theorem State.setOutCv_pinTick (n : Fin 2) (v : U16) : (s.setOutCv n v).pinTick = s.pinTick := rfl

/-! `setOutPulse` writes outPulse and nothing else. -/

@[simp] theorem State.setOutPulse_chan (n : Fin 2) (b : Bool) : (s.setOutPulse n b).chan = s.chan := rfl
@[simp] theorem State.setOutPulse_phase (n : Fin 2) (b : Bool) : (s.setOutPulse n b).phase = s.phase := rfl
@[simp] theorem State.setOutPulse_muxSel (n : Fin 2) (b : Bool) : (s.setOutPulse n b).muxSel = s.muxSel := rfl
@[simp] theorem State.setOutPulse_outAudio (n : Fin 2) (b : Bool) : (s.setOutPulse n b).outAudio = s.outAudio := rfl
@[simp] theorem State.setOutPulse_outCv (n : Fin 2) (b : Bool) : (s.setOutPulse n b).outCv = s.outCv := rfl
@[simp] theorem State.setOutPulse_outPulse (n : Fin 2) (b : Bool) : (s.setOutPulse n b).outPulse = s.outPulse.set n b := rfl
@[simp] theorem State.setOutPulse_outLed (n : Fin 2) (b : Bool) : (s.setOutPulse n b).outLed = s.outLed := rfl
@[simp] theorem State.setOutPulse_cvPwm (n : Fin 2) (b : Bool) : (s.setOutPulse n b).cvPwm = s.cvPwm := rfl
@[simp] theorem State.setOutPulse_ledPwm (n : Fin 2) (b : Bool) : (s.setOutPulse n b).ledPwm = s.ledPwm := rfl
@[simp] theorem State.setOutPulse_pulseOutLevel (n : Fin 2) (b : Bool) : (s.setOutPulse n b).pulseOutLevel = s.pulseOutLevel := rfl
@[simp] theorem State.setOutPulse_dacCsN (n : Fin 2) (b : Bool) : (s.setOutPulse n b).dacCsN = s.dacCsN := rfl
@[simp] theorem State.setOutPulse_spiTrace (n : Fin 2) (b : Bool) : (s.setOutPulse n b).spiTrace = s.spiTrace := rfl
@[simp] theorem State.setOutPulse_dacCode (n : Fin 2) (b : Bool) : (s.setOutPulse n b).dacCode = s.dacCode := rfl
@[simp] theorem State.setOutPulse_eventTrace (n : Fin 2) (b : Bool) : (s.setOutPulse n b).eventTrace = s.eventTrace := rfl
@[simp] theorem State.setOutPulse_dacLock (n : Fin 2) (b : Bool) : (s.setOutPulse n b).dacLock = s.dacLock := rfl
@[simp] theorem State.setOutPulse_pulsesRetired (n : Fin 2) (b : Bool) : (s.setOutPulse n b).pulsesRetired = s.pulsesRetired := rfl
@[simp] theorem State.setOutPulse_fault (n : Fin 2) (b : Bool) : (s.setOutPulse n b).fault = s.fault := rfl
@[simp] theorem State.setOutPulse_result (n : Fin 2) (b : Bool) : (s.setOutPulse n b).result = s.result := rfl
@[simp] theorem State.setOutPulse_cfg (n : Fin 2) (b : Bool) : (s.setOutPulse n b).cfg = s.cfg := rfl
@[simp] theorem State.setOutPulse_commands (n : Fin 2) (b : Bool) : (s.setOutPulse n b).commands = s.commands := rfl
@[simp] theorem State.setOutPulse_draws (n : Fin 2) (b : Bool) : (s.setOutPulse n b).draws = s.draws := rfl
@[simp] theorem State.setOutPulse_inputs (n : Fin 2) (b : Bool) : (s.setOutPulse n b).inputs = s.inputs := rfl
@[simp] theorem State.setOutPulse_tick (n : Fin 2) (b : Bool) : (s.setOutPulse n b).tick = s.tick := rfl
@[simp] theorem State.setOutPulse_rendererLevels (n : Fin 2) (b : Bool) : (s.setOutPulse n b).rendererLevels = s.rendererLevels := rfl
@[simp] theorem State.setOutPulse_pinTick (n : Fin 2) (b : Bool) : (s.setOutPulse n b).pinTick = s.pinTick := rfl

/-! `setOutLed` writes outLed and nothing else. -/

@[simp] theorem State.setOutLed_chan (k : Fin 6) (x : U16) : (s.setOutLed k x).chan = s.chan := rfl
@[simp] theorem State.setOutLed_phase (k : Fin 6) (x : U16) : (s.setOutLed k x).phase = s.phase := rfl
@[simp] theorem State.setOutLed_muxSel (k : Fin 6) (x : U16) : (s.setOutLed k x).muxSel = s.muxSel := rfl
@[simp] theorem State.setOutLed_outAudio (k : Fin 6) (x : U16) : (s.setOutLed k x).outAudio = s.outAudio := rfl
@[simp] theorem State.setOutLed_outCv (k : Fin 6) (x : U16) : (s.setOutLed k x).outCv = s.outCv := rfl
@[simp] theorem State.setOutLed_outPulse (k : Fin 6) (x : U16) : (s.setOutLed k x).outPulse = s.outPulse := rfl
@[simp] theorem State.setOutLed_outLed (k : Fin 6) (x : U16) : (s.setOutLed k x).outLed = s.outLed.set k (some x) := rfl
@[simp] theorem State.setOutLed_cvPwm (k : Fin 6) (x : U16) : (s.setOutLed k x).cvPwm = s.cvPwm := rfl
@[simp] theorem State.setOutLed_ledPwm (k : Fin 6) (x : U16) : (s.setOutLed k x).ledPwm = s.ledPwm := rfl
@[simp] theorem State.setOutLed_pulseOutLevel (k : Fin 6) (x : U16) : (s.setOutLed k x).pulseOutLevel = s.pulseOutLevel := rfl
@[simp] theorem State.setOutLed_dacCsN (k : Fin 6) (x : U16) : (s.setOutLed k x).dacCsN = s.dacCsN := rfl
@[simp] theorem State.setOutLed_spiTrace (k : Fin 6) (x : U16) : (s.setOutLed k x).spiTrace = s.spiTrace := rfl
@[simp] theorem State.setOutLed_dacCode (k : Fin 6) (x : U16) : (s.setOutLed k x).dacCode = s.dacCode := rfl
@[simp] theorem State.setOutLed_eventTrace (k : Fin 6) (x : U16) : (s.setOutLed k x).eventTrace = s.eventTrace := rfl
@[simp] theorem State.setOutLed_dacLock (k : Fin 6) (x : U16) : (s.setOutLed k x).dacLock = s.dacLock := rfl
@[simp] theorem State.setOutLed_pulsesRetired (k : Fin 6) (x : U16) : (s.setOutLed k x).pulsesRetired = s.pulsesRetired := rfl
@[simp] theorem State.setOutLed_fault (k : Fin 6) (x : U16) : (s.setOutLed k x).fault = s.fault := rfl
@[simp] theorem State.setOutLed_result (k : Fin 6) (x : U16) : (s.setOutLed k x).result = s.result := rfl
@[simp] theorem State.setOutLed_cfg (k : Fin 6) (x : U16) : (s.setOutLed k x).cfg = s.cfg := rfl
@[simp] theorem State.setOutLed_commands (k : Fin 6) (x : U16) : (s.setOutLed k x).commands = s.commands := rfl
@[simp] theorem State.setOutLed_draws (k : Fin 6) (x : U16) : (s.setOutLed k x).draws = s.draws := rfl
@[simp] theorem State.setOutLed_inputs (k : Fin 6) (x : U16) : (s.setOutLed k x).inputs = s.inputs := rfl
@[simp] theorem State.setOutLed_tick (k : Fin 6) (x : U16) : (s.setOutLed k x).tick = s.tick := rfl
@[simp] theorem State.setOutLed_rendererLevels (k : Fin 6) (x : U16) : (s.setOutLed k x).rendererLevels = s.rendererLevels := rfl
@[simp] theorem State.setOutLed_pinTick (k : Fin 6) (x : U16) : (s.setOutLed k x).pinTick = s.pinTick := rfl

/-! `setCvPwm` writes cvPwm and nothing else. -/

@[simp] theorem State.setCvPwm_chan (n : Fin 2) (d : U16) : (s.setCvPwm n d).chan = s.chan := rfl
@[simp] theorem State.setCvPwm_phase (n : Fin 2) (d : U16) : (s.setCvPwm n d).phase = s.phase := rfl
@[simp] theorem State.setCvPwm_muxSel (n : Fin 2) (d : U16) : (s.setCvPwm n d).muxSel = s.muxSel := rfl
@[simp] theorem State.setCvPwm_outAudio (n : Fin 2) (d : U16) : (s.setCvPwm n d).outAudio = s.outAudio := rfl
@[simp] theorem State.setCvPwm_outCv (n : Fin 2) (d : U16) : (s.setCvPwm n d).outCv = s.outCv := rfl
@[simp] theorem State.setCvPwm_outPulse (n : Fin 2) (d : U16) : (s.setCvPwm n d).outPulse = s.outPulse := rfl
@[simp] theorem State.setCvPwm_outLed (n : Fin 2) (d : U16) : (s.setCvPwm n d).outLed = s.outLed := rfl
@[simp] theorem State.setCvPwm_cvPwm (n : Fin 2) (d : U16) : (s.setCvPwm n d).cvPwm = s.cvPwm.set n d := rfl
@[simp] theorem State.setCvPwm_ledPwm (n : Fin 2) (d : U16) : (s.setCvPwm n d).ledPwm = s.ledPwm := rfl
@[simp] theorem State.setCvPwm_pulseOutLevel (n : Fin 2) (d : U16) : (s.setCvPwm n d).pulseOutLevel = s.pulseOutLevel := rfl
@[simp] theorem State.setCvPwm_dacCsN (n : Fin 2) (d : U16) : (s.setCvPwm n d).dacCsN = s.dacCsN := rfl
@[simp] theorem State.setCvPwm_spiTrace (n : Fin 2) (d : U16) : (s.setCvPwm n d).spiTrace = s.spiTrace := rfl
@[simp] theorem State.setCvPwm_dacCode (n : Fin 2) (d : U16) : (s.setCvPwm n d).dacCode = s.dacCode := rfl
@[simp] theorem State.setCvPwm_eventTrace (n : Fin 2) (d : U16) : (s.setCvPwm n d).eventTrace = s.eventTrace := rfl
@[simp] theorem State.setCvPwm_dacLock (n : Fin 2) (d : U16) : (s.setCvPwm n d).dacLock = s.dacLock := rfl
@[simp] theorem State.setCvPwm_pulsesRetired (n : Fin 2) (d : U16) : (s.setCvPwm n d).pulsesRetired = s.pulsesRetired := rfl
@[simp] theorem State.setCvPwm_fault (n : Fin 2) (d : U16) : (s.setCvPwm n d).fault = s.fault := rfl
@[simp] theorem State.setCvPwm_result (n : Fin 2) (d : U16) : (s.setCvPwm n d).result = s.result := rfl
@[simp] theorem State.setCvPwm_cfg (n : Fin 2) (d : U16) : (s.setCvPwm n d).cfg = s.cfg := rfl
@[simp] theorem State.setCvPwm_commands (n : Fin 2) (d : U16) : (s.setCvPwm n d).commands = s.commands := rfl
@[simp] theorem State.setCvPwm_draws (n : Fin 2) (d : U16) : (s.setCvPwm n d).draws = s.draws := rfl
@[simp] theorem State.setCvPwm_inputs (n : Fin 2) (d : U16) : (s.setCvPwm n d).inputs = s.inputs := rfl
@[simp] theorem State.setCvPwm_tick (n : Fin 2) (d : U16) : (s.setCvPwm n d).tick = s.tick := rfl
@[simp] theorem State.setCvPwm_rendererLevels (n : Fin 2) (d : U16) : (s.setCvPwm n d).rendererLevels = s.rendererLevels := rfl
@[simp] theorem State.setCvPwm_pinTick (n : Fin 2) (d : U16) : (s.setCvPwm n d).pinTick = s.pinTick := rfl

/-! `setLedPwm` writes ledPwm and nothing else. -/

@[simp] theorem State.setLedPwm_chan (k : Fin 6) (d : U16) : (s.setLedPwm k d).chan = s.chan := rfl
@[simp] theorem State.setLedPwm_phase (k : Fin 6) (d : U16) : (s.setLedPwm k d).phase = s.phase := rfl
@[simp] theorem State.setLedPwm_muxSel (k : Fin 6) (d : U16) : (s.setLedPwm k d).muxSel = s.muxSel := rfl
@[simp] theorem State.setLedPwm_outAudio (k : Fin 6) (d : U16) : (s.setLedPwm k d).outAudio = s.outAudio := rfl
@[simp] theorem State.setLedPwm_outCv (k : Fin 6) (d : U16) : (s.setLedPwm k d).outCv = s.outCv := rfl
@[simp] theorem State.setLedPwm_outPulse (k : Fin 6) (d : U16) : (s.setLedPwm k d).outPulse = s.outPulse := rfl
@[simp] theorem State.setLedPwm_outLed (k : Fin 6) (d : U16) : (s.setLedPwm k d).outLed = s.outLed := rfl
@[simp] theorem State.setLedPwm_cvPwm (k : Fin 6) (d : U16) : (s.setLedPwm k d).cvPwm = s.cvPwm := rfl
@[simp] theorem State.setLedPwm_ledPwm (k : Fin 6) (d : U16) : (s.setLedPwm k d).ledPwm = s.ledPwm.set k d := rfl
@[simp] theorem State.setLedPwm_pulseOutLevel (k : Fin 6) (d : U16) : (s.setLedPwm k d).pulseOutLevel = s.pulseOutLevel := rfl
@[simp] theorem State.setLedPwm_dacCsN (k : Fin 6) (d : U16) : (s.setLedPwm k d).dacCsN = s.dacCsN := rfl
@[simp] theorem State.setLedPwm_spiTrace (k : Fin 6) (d : U16) : (s.setLedPwm k d).spiTrace = s.spiTrace := rfl
@[simp] theorem State.setLedPwm_dacCode (k : Fin 6) (d : U16) : (s.setLedPwm k d).dacCode = s.dacCode := rfl
@[simp] theorem State.setLedPwm_eventTrace (k : Fin 6) (d : U16) : (s.setLedPwm k d).eventTrace = s.eventTrace := rfl
@[simp] theorem State.setLedPwm_dacLock (k : Fin 6) (d : U16) : (s.setLedPwm k d).dacLock = s.dacLock := rfl
@[simp] theorem State.setLedPwm_pulsesRetired (k : Fin 6) (d : U16) : (s.setLedPwm k d).pulsesRetired = s.pulsesRetired := rfl
@[simp] theorem State.setLedPwm_fault (k : Fin 6) (d : U16) : (s.setLedPwm k d).fault = s.fault := rfl
@[simp] theorem State.setLedPwm_result (k : Fin 6) (d : U16) : (s.setLedPwm k d).result = s.result := rfl
@[simp] theorem State.setLedPwm_cfg (k : Fin 6) (d : U16) : (s.setLedPwm k d).cfg = s.cfg := rfl
@[simp] theorem State.setLedPwm_commands (k : Fin 6) (d : U16) : (s.setLedPwm k d).commands = s.commands := rfl
@[simp] theorem State.setLedPwm_draws (k : Fin 6) (d : U16) : (s.setLedPwm k d).draws = s.draws := rfl
@[simp] theorem State.setLedPwm_inputs (k : Fin 6) (d : U16) : (s.setLedPwm k d).inputs = s.inputs := rfl
@[simp] theorem State.setLedPwm_tick (k : Fin 6) (d : U16) : (s.setLedPwm k d).tick = s.tick := rfl
@[simp] theorem State.setLedPwm_rendererLevels (k : Fin 6) (d : U16) : (s.setLedPwm k d).rendererLevels = s.rendererLevels := rfl
@[simp] theorem State.setLedPwm_pinTick (k : Fin 6) (d : U16) : (s.setLedPwm k d).pinTick = s.pinTick := rfl

/-! `setPulseLevel` writes pulseOutLevel and nothing else. -/

@[simp] theorem State.setPulseLevel_chan (n : Fin 2) (l : PinLevel) : (s.setPulseLevel n l).chan = s.chan := rfl
@[simp] theorem State.setPulseLevel_phase (n : Fin 2) (l : PinLevel) : (s.setPulseLevel n l).phase = s.phase := rfl
@[simp] theorem State.setPulseLevel_muxSel (n : Fin 2) (l : PinLevel) : (s.setPulseLevel n l).muxSel = s.muxSel := rfl
@[simp] theorem State.setPulseLevel_outAudio (n : Fin 2) (l : PinLevel) : (s.setPulseLevel n l).outAudio = s.outAudio := rfl
@[simp] theorem State.setPulseLevel_outCv (n : Fin 2) (l : PinLevel) : (s.setPulseLevel n l).outCv = s.outCv := rfl
@[simp] theorem State.setPulseLevel_outPulse (n : Fin 2) (l : PinLevel) : (s.setPulseLevel n l).outPulse = s.outPulse := rfl
@[simp] theorem State.setPulseLevel_outLed (n : Fin 2) (l : PinLevel) : (s.setPulseLevel n l).outLed = s.outLed := rfl
@[simp] theorem State.setPulseLevel_cvPwm (n : Fin 2) (l : PinLevel) : (s.setPulseLevel n l).cvPwm = s.cvPwm := rfl
@[simp] theorem State.setPulseLevel_ledPwm (n : Fin 2) (l : PinLevel) : (s.setPulseLevel n l).ledPwm = s.ledPwm := rfl
@[simp] theorem State.setPulseLevel_pulseOutLevel (n : Fin 2) (l : PinLevel) : (s.setPulseLevel n l).pulseOutLevel = s.pulseOutLevel.set n l := rfl
@[simp] theorem State.setPulseLevel_dacCsN (n : Fin 2) (l : PinLevel) : (s.setPulseLevel n l).dacCsN = s.dacCsN := rfl
@[simp] theorem State.setPulseLevel_spiTrace (n : Fin 2) (l : PinLevel) : (s.setPulseLevel n l).spiTrace = s.spiTrace := rfl
@[simp] theorem State.setPulseLevel_dacCode (n : Fin 2) (l : PinLevel) : (s.setPulseLevel n l).dacCode = s.dacCode := rfl
@[simp] theorem State.setPulseLevel_eventTrace (n : Fin 2) (l : PinLevel) : (s.setPulseLevel n l).eventTrace = s.eventTrace := rfl
@[simp] theorem State.setPulseLevel_dacLock (n : Fin 2) (l : PinLevel) : (s.setPulseLevel n l).dacLock = s.dacLock := rfl
@[simp] theorem State.setPulseLevel_pulsesRetired (n : Fin 2) (l : PinLevel) : (s.setPulseLevel n l).pulsesRetired = s.pulsesRetired := rfl
@[simp] theorem State.setPulseLevel_fault (n : Fin 2) (l : PinLevel) : (s.setPulseLevel n l).fault = s.fault := rfl
@[simp] theorem State.setPulseLevel_result (n : Fin 2) (l : PinLevel) : (s.setPulseLevel n l).result = s.result := rfl
@[simp] theorem State.setPulseLevel_cfg (n : Fin 2) (l : PinLevel) : (s.setPulseLevel n l).cfg = s.cfg := rfl
@[simp] theorem State.setPulseLevel_commands (n : Fin 2) (l : PinLevel) : (s.setPulseLevel n l).commands = s.commands := rfl
@[simp] theorem State.setPulseLevel_draws (n : Fin 2) (l : PinLevel) : (s.setPulseLevel n l).draws = s.draws := rfl
@[simp] theorem State.setPulseLevel_inputs (n : Fin 2) (l : PinLevel) : (s.setPulseLevel n l).inputs = s.inputs := rfl
@[simp] theorem State.setPulseLevel_tick (n : Fin 2) (l : PinLevel) : (s.setPulseLevel n l).tick = s.tick := rfl
@[simp] theorem State.setPulseLevel_rendererLevels (n : Fin 2) (l : PinLevel) : (s.setPulseLevel n l).rendererLevels = s.rendererLevels := rfl
@[simp] theorem State.setPulseLevel_pinTick (n : Fin 2) (l : PinLevel) : (s.setPulseLevel n l).pinTick = s.pinTick := rfl

/-! `setDacCsN` writes dacCsN and nothing else. -/

@[simp] theorem State.setDacCsN_chan (high : Bool) : (s.setDacCsN high).chan = s.chan := rfl
@[simp] theorem State.setDacCsN_phase (high : Bool) : (s.setDacCsN high).phase = s.phase := rfl
@[simp] theorem State.setDacCsN_muxSel (high : Bool) : (s.setDacCsN high).muxSel = s.muxSel := rfl
@[simp] theorem State.setDacCsN_outAudio (high : Bool) : (s.setDacCsN high).outAudio = s.outAudio := rfl
@[simp] theorem State.setDacCsN_outCv (high : Bool) : (s.setDacCsN high).outCv = s.outCv := rfl
@[simp] theorem State.setDacCsN_outPulse (high : Bool) : (s.setDacCsN high).outPulse = s.outPulse := rfl
@[simp] theorem State.setDacCsN_outLed (high : Bool) : (s.setDacCsN high).outLed = s.outLed := rfl
@[simp] theorem State.setDacCsN_cvPwm (high : Bool) : (s.setDacCsN high).cvPwm = s.cvPwm := rfl
@[simp] theorem State.setDacCsN_ledPwm (high : Bool) : (s.setDacCsN high).ledPwm = s.ledPwm := rfl
@[simp] theorem State.setDacCsN_pulseOutLevel (high : Bool) : (s.setDacCsN high).pulseOutLevel = s.pulseOutLevel := rfl
@[simp] theorem State.setDacCsN_dacCsN (high : Bool) : (s.setDacCsN high).dacCsN = high := rfl
@[simp] theorem State.setDacCsN_spiTrace (high : Bool) : (s.setDacCsN high).spiTrace = s.spiTrace := rfl
@[simp] theorem State.setDacCsN_dacCode (high : Bool) : (s.setDacCsN high).dacCode = s.dacCode := rfl
@[simp] theorem State.setDacCsN_eventTrace (high : Bool) : (s.setDacCsN high).eventTrace = s.eventTrace := rfl
@[simp] theorem State.setDacCsN_dacLock (high : Bool) : (s.setDacCsN high).dacLock = s.dacLock := rfl
@[simp] theorem State.setDacCsN_pulsesRetired (high : Bool) : (s.setDacCsN high).pulsesRetired = s.pulsesRetired := rfl
@[simp] theorem State.setDacCsN_fault (high : Bool) : (s.setDacCsN high).fault = s.fault := rfl
@[simp] theorem State.setDacCsN_result (high : Bool) : (s.setDacCsN high).result = s.result := rfl
@[simp] theorem State.setDacCsN_cfg (high : Bool) : (s.setDacCsN high).cfg = s.cfg := rfl
@[simp] theorem State.setDacCsN_commands (high : Bool) : (s.setDacCsN high).commands = s.commands := rfl
@[simp] theorem State.setDacCsN_draws (high : Bool) : (s.setDacCsN high).draws = s.draws := rfl
@[simp] theorem State.setDacCsN_inputs (high : Bool) : (s.setDacCsN high).inputs = s.inputs := rfl
@[simp] theorem State.setDacCsN_tick (high : Bool) : (s.setDacCsN high).tick = s.tick := rfl
@[simp] theorem State.setDacCsN_rendererLevels (high : Bool) : (s.setDacCsN high).rendererLevels = s.rendererLevels := rfl
@[simp] theorem State.setDacCsN_pinTick (high : Bool) : (s.setDacCsN high).pinTick = s.pinTick := rfl

/-! `spiSend` writes spiTrace and nothing else. -/

@[simp] theorem State.spiSend_chan (x : Byte) : (s.spiSend x).chan = s.chan := rfl
@[simp] theorem State.spiSend_phase (x : Byte) : (s.spiSend x).phase = s.phase := rfl
@[simp] theorem State.spiSend_muxSel (x : Byte) : (s.spiSend x).muxSel = s.muxSel := rfl
@[simp] theorem State.spiSend_outAudio (x : Byte) : (s.spiSend x).outAudio = s.outAudio := rfl
@[simp] theorem State.spiSend_outCv (x : Byte) : (s.spiSend x).outCv = s.outCv := rfl
@[simp] theorem State.spiSend_outPulse (x : Byte) : (s.spiSend x).outPulse = s.outPulse := rfl
@[simp] theorem State.spiSend_outLed (x : Byte) : (s.spiSend x).outLed = s.outLed := rfl
@[simp] theorem State.spiSend_cvPwm (x : Byte) : (s.spiSend x).cvPwm = s.cvPwm := rfl
@[simp] theorem State.spiSend_ledPwm (x : Byte) : (s.spiSend x).ledPwm = s.ledPwm := rfl
@[simp] theorem State.spiSend_pulseOutLevel (x : Byte) : (s.spiSend x).pulseOutLevel = s.pulseOutLevel := rfl
@[simp] theorem State.spiSend_dacCsN (x : Byte) : (s.spiSend x).dacCsN = s.dacCsN := rfl
@[simp] theorem State.spiSend_spiTrace (x : Byte) : (s.spiSend x).spiTrace = s.spiTrace ++ [x] := rfl
@[simp] theorem State.spiSend_dacCode (x : Byte) : (s.spiSend x).dacCode = s.dacCode := rfl
@[simp] theorem State.spiSend_eventTrace (x : Byte) : (s.spiSend x).eventTrace = s.eventTrace := rfl
@[simp] theorem State.spiSend_dacLock (x : Byte) : (s.spiSend x).dacLock = s.dacLock := rfl
@[simp] theorem State.spiSend_pulsesRetired (x : Byte) : (s.spiSend x).pulsesRetired = s.pulsesRetired := rfl
@[simp] theorem State.spiSend_fault (x : Byte) : (s.spiSend x).fault = s.fault := rfl
@[simp] theorem State.spiSend_result (x : Byte) : (s.spiSend x).result = s.result := rfl
@[simp] theorem State.spiSend_cfg (x : Byte) : (s.spiSend x).cfg = s.cfg := rfl
@[simp] theorem State.spiSend_commands (x : Byte) : (s.spiSend x).commands = s.commands := rfl
@[simp] theorem State.spiSend_draws (x : Byte) : (s.spiSend x).draws = s.draws := rfl
@[simp] theorem State.spiSend_inputs (x : Byte) : (s.spiSend x).inputs = s.inputs := rfl
@[simp] theorem State.spiSend_tick (x : Byte) : (s.spiSend x).tick = s.tick := rfl
@[simp] theorem State.spiSend_rendererLevels (x : Byte) : (s.spiSend x).rendererLevels = s.rendererLevels := rfl
@[simp] theorem State.spiSend_pinTick (x : Byte) : (s.spiSend x).pinTick = s.pinTick := rfl

/-! `setDacCode` writes dacCode and nothing else. -/

@[simp] theorem State.setDacCode_chan (ch : Fin 2) (x : U12) : (s.setDacCode ch x).chan = s.chan := rfl
@[simp] theorem State.setDacCode_phase (ch : Fin 2) (x : U12) : (s.setDacCode ch x).phase = s.phase := rfl
@[simp] theorem State.setDacCode_muxSel (ch : Fin 2) (x : U12) : (s.setDacCode ch x).muxSel = s.muxSel := rfl
@[simp] theorem State.setDacCode_outAudio (ch : Fin 2) (x : U12) : (s.setDacCode ch x).outAudio = s.outAudio := rfl
@[simp] theorem State.setDacCode_outCv (ch : Fin 2) (x : U12) : (s.setDacCode ch x).outCv = s.outCv := rfl
@[simp] theorem State.setDacCode_outPulse (ch : Fin 2) (x : U12) : (s.setDacCode ch x).outPulse = s.outPulse := rfl
@[simp] theorem State.setDacCode_outLed (ch : Fin 2) (x : U12) : (s.setDacCode ch x).outLed = s.outLed := rfl
@[simp] theorem State.setDacCode_cvPwm (ch : Fin 2) (x : U12) : (s.setDacCode ch x).cvPwm = s.cvPwm := rfl
@[simp] theorem State.setDacCode_ledPwm (ch : Fin 2) (x : U12) : (s.setDacCode ch x).ledPwm = s.ledPwm := rfl
@[simp] theorem State.setDacCode_pulseOutLevel (ch : Fin 2) (x : U12) : (s.setDacCode ch x).pulseOutLevel = s.pulseOutLevel := rfl
@[simp] theorem State.setDacCode_dacCsN (ch : Fin 2) (x : U12) : (s.setDacCode ch x).dacCsN = s.dacCsN := rfl
@[simp] theorem State.setDacCode_spiTrace (ch : Fin 2) (x : U12) : (s.setDacCode ch x).spiTrace = s.spiTrace := rfl
@[simp] theorem State.setDacCode_dacCode (ch : Fin 2) (x : U12) : (s.setDacCode ch x).dacCode = s.dacCode.set ch (some x) := rfl
@[simp] theorem State.setDacCode_eventTrace (ch : Fin 2) (x : U12) : (s.setDacCode ch x).eventTrace = s.eventTrace := rfl
@[simp] theorem State.setDacCode_dacLock (ch : Fin 2) (x : U12) : (s.setDacCode ch x).dacLock = s.dacLock := rfl
@[simp] theorem State.setDacCode_pulsesRetired (ch : Fin 2) (x : U12) : (s.setDacCode ch x).pulsesRetired = s.pulsesRetired := rfl
@[simp] theorem State.setDacCode_fault (ch : Fin 2) (x : U12) : (s.setDacCode ch x).fault = s.fault := rfl
@[simp] theorem State.setDacCode_result (ch : Fin 2) (x : U12) : (s.setDacCode ch x).result = s.result := rfl
@[simp] theorem State.setDacCode_cfg (ch : Fin 2) (x : U12) : (s.setDacCode ch x).cfg = s.cfg := rfl
@[simp] theorem State.setDacCode_commands (ch : Fin 2) (x : U12) : (s.setDacCode ch x).commands = s.commands := rfl
@[simp] theorem State.setDacCode_draws (ch : Fin 2) (x : U12) : (s.setDacCode ch x).draws = s.draws := rfl
@[simp] theorem State.setDacCode_inputs (ch : Fin 2) (x : U12) : (s.setDacCode ch x).inputs = s.inputs := rfl
@[simp] theorem State.setDacCode_tick (ch : Fin 2) (x : U12) : (s.setDacCode ch x).tick = s.tick := rfl
@[simp] theorem State.setDacCode_rendererLevels (ch : Fin 2) (x : U12) : (s.setDacCode ch x).rendererLevels = s.rendererLevels := rfl
@[simp] theorem State.setDacCode_pinTick (ch : Fin 2) (x : U12) : (s.setDacCode ch x).pinTick = s.pinTick := rfl

/-! `log` writes eventTrace and nothing else. -/

@[simp] theorem State.log_chan (e : Event) : (s.log e).chan = s.chan := rfl
@[simp] theorem State.log_phase (e : Event) : (s.log e).phase = s.phase := rfl
@[simp] theorem State.log_muxSel (e : Event) : (s.log e).muxSel = s.muxSel := rfl
@[simp] theorem State.log_outAudio (e : Event) : (s.log e).outAudio = s.outAudio := rfl
@[simp] theorem State.log_outCv (e : Event) : (s.log e).outCv = s.outCv := rfl
@[simp] theorem State.log_outPulse (e : Event) : (s.log e).outPulse = s.outPulse := rfl
@[simp] theorem State.log_outLed (e : Event) : (s.log e).outLed = s.outLed := rfl
@[simp] theorem State.log_cvPwm (e : Event) : (s.log e).cvPwm = s.cvPwm := rfl
@[simp] theorem State.log_ledPwm (e : Event) : (s.log e).ledPwm = s.ledPwm := rfl
@[simp] theorem State.log_pulseOutLevel (e : Event) : (s.log e).pulseOutLevel = s.pulseOutLevel := rfl
@[simp] theorem State.log_dacCsN (e : Event) : (s.log e).dacCsN = s.dacCsN := rfl
@[simp] theorem State.log_spiTrace (e : Event) : (s.log e).spiTrace = s.spiTrace := rfl
@[simp] theorem State.log_dacCode (e : Event) : (s.log e).dacCode = s.dacCode := rfl
@[simp] theorem State.log_eventTrace (e : Event) : (s.log e).eventTrace = s.eventTrace ++ [e] := rfl
@[simp] theorem State.log_dacLock (e : Event) : (s.log e).dacLock = s.dacLock := rfl
@[simp] theorem State.log_pulsesRetired (e : Event) : (s.log e).pulsesRetired = s.pulsesRetired := rfl
@[simp] theorem State.log_fault (e : Event) : (s.log e).fault = s.fault := rfl
@[simp] theorem State.log_result (e : Event) : (s.log e).result = s.result := rfl
@[simp] theorem State.log_cfg (e : Event) : (s.log e).cfg = s.cfg := rfl
@[simp] theorem State.log_commands (e : Event) : (s.log e).commands = s.commands := rfl
@[simp] theorem State.log_draws (e : Event) : (s.log e).draws = s.draws := rfl
@[simp] theorem State.log_inputs (e : Event) : (s.log e).inputs = s.inputs := rfl
@[simp] theorem State.log_tick (e : Event) : (s.log e).tick = s.tick := rfl
@[simp] theorem State.log_rendererLevels (e : Event) : (s.log e).rendererLevels = s.rendererLevels := rfl
@[simp] theorem State.log_pinTick (e : Event) : (s.log e).pinTick = s.pinTick := rfl

/-! `setDacLock` writes dacLock and nothing else. -/

@[simp] theorem State.setDacLock_chan (held : Bool) : (s.setDacLock held).chan = s.chan := rfl
@[simp] theorem State.setDacLock_phase (held : Bool) : (s.setDacLock held).phase = s.phase := rfl
@[simp] theorem State.setDacLock_muxSel (held : Bool) : (s.setDacLock held).muxSel = s.muxSel := rfl
@[simp] theorem State.setDacLock_outAudio (held : Bool) : (s.setDacLock held).outAudio = s.outAudio := rfl
@[simp] theorem State.setDacLock_outCv (held : Bool) : (s.setDacLock held).outCv = s.outCv := rfl
@[simp] theorem State.setDacLock_outPulse (held : Bool) : (s.setDacLock held).outPulse = s.outPulse := rfl
@[simp] theorem State.setDacLock_outLed (held : Bool) : (s.setDacLock held).outLed = s.outLed := rfl
@[simp] theorem State.setDacLock_cvPwm (held : Bool) : (s.setDacLock held).cvPwm = s.cvPwm := rfl
@[simp] theorem State.setDacLock_ledPwm (held : Bool) : (s.setDacLock held).ledPwm = s.ledPwm := rfl
@[simp] theorem State.setDacLock_pulseOutLevel (held : Bool) : (s.setDacLock held).pulseOutLevel = s.pulseOutLevel := rfl
@[simp] theorem State.setDacLock_dacCsN (held : Bool) : (s.setDacLock held).dacCsN = s.dacCsN := rfl
@[simp] theorem State.setDacLock_spiTrace (held : Bool) : (s.setDacLock held).spiTrace = s.spiTrace := rfl
@[simp] theorem State.setDacLock_dacCode (held : Bool) : (s.setDacLock held).dacCode = s.dacCode := rfl
@[simp] theorem State.setDacLock_eventTrace (held : Bool) : (s.setDacLock held).eventTrace = s.eventTrace := rfl
@[simp] theorem State.setDacLock_dacLock (held : Bool) : (s.setDacLock held).dacLock = held := rfl
@[simp] theorem State.setDacLock_pulsesRetired (held : Bool) : (s.setDacLock held).pulsesRetired = s.pulsesRetired := rfl
@[simp] theorem State.setDacLock_fault (held : Bool) : (s.setDacLock held).fault = s.fault := rfl
@[simp] theorem State.setDacLock_result (held : Bool) : (s.setDacLock held).result = s.result := rfl
@[simp] theorem State.setDacLock_cfg (held : Bool) : (s.setDacLock held).cfg = s.cfg := rfl
@[simp] theorem State.setDacLock_commands (held : Bool) : (s.setDacLock held).commands = s.commands := rfl
@[simp] theorem State.setDacLock_draws (held : Bool) : (s.setDacLock held).draws = s.draws := rfl
@[simp] theorem State.setDacLock_inputs (held : Bool) : (s.setDacLock held).inputs = s.inputs := rfl
@[simp] theorem State.setDacLock_tick (held : Bool) : (s.setDacLock held).tick = s.tick := rfl
@[simp] theorem State.setDacLock_rendererLevels (held : Bool) : (s.setDacLock held).rendererLevels = s.rendererLevels := rfl
@[simp] theorem State.setDacLock_pinTick (held : Bool) : (s.setDacLock held).pinTick = s.pinTick := rfl

/-! `retirePulses` writes pulsesRetired and nothing else. -/

@[simp] theorem State.retirePulses_chan : s.retirePulses.chan = s.chan := rfl
@[simp] theorem State.retirePulses_phase : s.retirePulses.phase = s.phase := rfl
@[simp] theorem State.retirePulses_muxSel : s.retirePulses.muxSel = s.muxSel := rfl
@[simp] theorem State.retirePulses_outAudio : s.retirePulses.outAudio = s.outAudio := rfl
@[simp] theorem State.retirePulses_outCv : s.retirePulses.outCv = s.outCv := rfl
@[simp] theorem State.retirePulses_outPulse : s.retirePulses.outPulse = s.outPulse := rfl
@[simp] theorem State.retirePulses_outLed : s.retirePulses.outLed = s.outLed := rfl
@[simp] theorem State.retirePulses_cvPwm : s.retirePulses.cvPwm = s.cvPwm := rfl
@[simp] theorem State.retirePulses_ledPwm : s.retirePulses.ledPwm = s.ledPwm := rfl
@[simp] theorem State.retirePulses_pulseOutLevel : s.retirePulses.pulseOutLevel = s.pulseOutLevel := rfl
@[simp] theorem State.retirePulses_dacCsN : s.retirePulses.dacCsN = s.dacCsN := rfl
@[simp] theorem State.retirePulses_spiTrace : s.retirePulses.spiTrace = s.spiTrace := rfl
@[simp] theorem State.retirePulses_dacCode : s.retirePulses.dacCode = s.dacCode := rfl
@[simp] theorem State.retirePulses_eventTrace : s.retirePulses.eventTrace = s.eventTrace := rfl
@[simp] theorem State.retirePulses_dacLock : s.retirePulses.dacLock = s.dacLock := rfl
@[simp] theorem State.retirePulses_pulsesRetired : s.retirePulses.pulsesRetired = true := rfl
@[simp] theorem State.retirePulses_fault : s.retirePulses.fault = s.fault := rfl
@[simp] theorem State.retirePulses_result : s.retirePulses.result = s.result := rfl
@[simp] theorem State.retirePulses_cfg : s.retirePulses.cfg = s.cfg := rfl
@[simp] theorem State.retirePulses_commands : s.retirePulses.commands = s.commands := rfl
@[simp] theorem State.retirePulses_draws : s.retirePulses.draws = s.draws := rfl
@[simp] theorem State.retirePulses_inputs : s.retirePulses.inputs = s.inputs := rfl
@[simp] theorem State.retirePulses_tick : s.retirePulses.tick = s.tick := rfl
@[simp] theorem State.retirePulses_rendererLevels : s.retirePulses.rendererLevels = s.rendererLevels := rfl
@[simp] theorem State.retirePulses_pinTick : s.retirePulses.pinTick = s.pinTick := rfl

/-! `returns` writes result and nothing else. -/

@[simp] theorem State.returns_chan (v : U16) : (s.returns v).chan = s.chan := rfl
@[simp] theorem State.returns_phase (v : U16) : (s.returns v).phase = s.phase := rfl
@[simp] theorem State.returns_muxSel (v : U16) : (s.returns v).muxSel = s.muxSel := rfl
@[simp] theorem State.returns_outAudio (v : U16) : (s.returns v).outAudio = s.outAudio := rfl
@[simp] theorem State.returns_outCv (v : U16) : (s.returns v).outCv = s.outCv := rfl
@[simp] theorem State.returns_outPulse (v : U16) : (s.returns v).outPulse = s.outPulse := rfl
@[simp] theorem State.returns_outLed (v : U16) : (s.returns v).outLed = s.outLed := rfl
@[simp] theorem State.returns_cvPwm (v : U16) : (s.returns v).cvPwm = s.cvPwm := rfl
@[simp] theorem State.returns_ledPwm (v : U16) : (s.returns v).ledPwm = s.ledPwm := rfl
@[simp] theorem State.returns_pulseOutLevel (v : U16) : (s.returns v).pulseOutLevel = s.pulseOutLevel := rfl
@[simp] theorem State.returns_dacCsN (v : U16) : (s.returns v).dacCsN = s.dacCsN := rfl
@[simp] theorem State.returns_spiTrace (v : U16) : (s.returns v).spiTrace = s.spiTrace := rfl
@[simp] theorem State.returns_dacCode (v : U16) : (s.returns v).dacCode = s.dacCode := rfl
@[simp] theorem State.returns_eventTrace (v : U16) : (s.returns v).eventTrace = s.eventTrace := rfl
@[simp] theorem State.returns_dacLock (v : U16) : (s.returns v).dacLock = s.dacLock := rfl
@[simp] theorem State.returns_pulsesRetired (v : U16) : (s.returns v).pulsesRetired = s.pulsesRetired := rfl
@[simp] theorem State.returns_fault (v : U16) : (s.returns v).fault = s.fault := rfl
@[simp] theorem State.returns_result (v : U16) : (s.returns v).result = some v := rfl
@[simp] theorem State.returns_cfg (v : U16) : (s.returns v).cfg = s.cfg := rfl
@[simp] theorem State.returns_commands (v : U16) : (s.returns v).commands = s.commands := rfl
@[simp] theorem State.returns_draws (v : U16) : (s.returns v).draws = s.draws := rfl
@[simp] theorem State.returns_inputs (v : U16) : (s.returns v).inputs = s.inputs := rfl
@[simp] theorem State.returns_tick (v : U16) : (s.returns v).tick = s.tick := rfl
@[simp] theorem State.returns_rendererLevels (v : U16) : (s.returns v).rendererLevels = s.rendererLevels := rfl
@[simp] theorem State.returns_pinTick (v : U16) : (s.returns v).pinTick = s.pinTick := rfl

/-! `returnsNothing` writes result and nothing else. -/

@[simp] theorem State.returnsNothing_chan : s.returnsNothing.chan = s.chan := rfl
@[simp] theorem State.returnsNothing_phase : s.returnsNothing.phase = s.phase := rfl
@[simp] theorem State.returnsNothing_muxSel : s.returnsNothing.muxSel = s.muxSel := rfl
@[simp] theorem State.returnsNothing_outAudio : s.returnsNothing.outAudio = s.outAudio := rfl
@[simp] theorem State.returnsNothing_outCv : s.returnsNothing.outCv = s.outCv := rfl
@[simp] theorem State.returnsNothing_outPulse : s.returnsNothing.outPulse = s.outPulse := rfl
@[simp] theorem State.returnsNothing_outLed : s.returnsNothing.outLed = s.outLed := rfl
@[simp] theorem State.returnsNothing_cvPwm : s.returnsNothing.cvPwm = s.cvPwm := rfl
@[simp] theorem State.returnsNothing_ledPwm : s.returnsNothing.ledPwm = s.ledPwm := rfl
@[simp] theorem State.returnsNothing_pulseOutLevel : s.returnsNothing.pulseOutLevel = s.pulseOutLevel := rfl
@[simp] theorem State.returnsNothing_dacCsN : s.returnsNothing.dacCsN = s.dacCsN := rfl
@[simp] theorem State.returnsNothing_spiTrace : s.returnsNothing.spiTrace = s.spiTrace := rfl
@[simp] theorem State.returnsNothing_dacCode : s.returnsNothing.dacCode = s.dacCode := rfl
@[simp] theorem State.returnsNothing_eventTrace : s.returnsNothing.eventTrace = s.eventTrace := rfl
@[simp] theorem State.returnsNothing_dacLock : s.returnsNothing.dacLock = s.dacLock := rfl
@[simp] theorem State.returnsNothing_pulsesRetired : s.returnsNothing.pulsesRetired = s.pulsesRetired := rfl
@[simp] theorem State.returnsNothing_fault : s.returnsNothing.fault = s.fault := rfl
@[simp] theorem State.returnsNothing_result : s.returnsNothing.result = none := rfl
@[simp] theorem State.returnsNothing_cfg : s.returnsNothing.cfg = s.cfg := rfl
@[simp] theorem State.returnsNothing_commands : s.returnsNothing.commands = s.commands := rfl
@[simp] theorem State.returnsNothing_draws : s.returnsNothing.draws = s.draws := rfl
@[simp] theorem State.returnsNothing_inputs : s.returnsNothing.inputs = s.inputs := rfl
@[simp] theorem State.returnsNothing_tick : s.returnsNothing.tick = s.tick := rfl
@[simp] theorem State.returnsNothing_rendererLevels : s.returnsNothing.rendererLevels = s.rendererLevels := rfl
@[simp] theorem State.returnsNothing_pinTick : s.returnsNothing.pinTick = s.pinTick := rfl

/-! `raise` writes fault and nothing else. -/

@[simp] theorem State.raise_chan (r : Fault) : (s.raise r).chan = s.chan := rfl
@[simp] theorem State.raise_phase (r : Fault) : (s.raise r).phase = s.phase := rfl
@[simp] theorem State.raise_muxSel (r : Fault) : (s.raise r).muxSel = s.muxSel := rfl
@[simp] theorem State.raise_outAudio (r : Fault) : (s.raise r).outAudio = s.outAudio := rfl
@[simp] theorem State.raise_outCv (r : Fault) : (s.raise r).outCv = s.outCv := rfl
@[simp] theorem State.raise_outPulse (r : Fault) : (s.raise r).outPulse = s.outPulse := rfl
@[simp] theorem State.raise_outLed (r : Fault) : (s.raise r).outLed = s.outLed := rfl
@[simp] theorem State.raise_cvPwm (r : Fault) : (s.raise r).cvPwm = s.cvPwm := rfl
@[simp] theorem State.raise_ledPwm (r : Fault) : (s.raise r).ledPwm = s.ledPwm := rfl
@[simp] theorem State.raise_pulseOutLevel (r : Fault) : (s.raise r).pulseOutLevel = s.pulseOutLevel := rfl
@[simp] theorem State.raise_dacCsN (r : Fault) : (s.raise r).dacCsN = s.dacCsN := rfl
@[simp] theorem State.raise_spiTrace (r : Fault) : (s.raise r).spiTrace = s.spiTrace := rfl
@[simp] theorem State.raise_dacCode (r : Fault) : (s.raise r).dacCode = s.dacCode := rfl
@[simp] theorem State.raise_eventTrace (r : Fault) : (s.raise r).eventTrace = s.eventTrace := rfl
@[simp] theorem State.raise_dacLock (r : Fault) : (s.raise r).dacLock = s.dacLock := rfl
@[simp] theorem State.raise_pulsesRetired (r : Fault) : (s.raise r).pulsesRetired = s.pulsesRetired := rfl
@[simp] theorem State.raise_fault (r : Fault) : (s.raise r).fault = some r := rfl
@[simp] theorem State.raise_result (r : Fault) : (s.raise r).result = s.result := rfl
@[simp] theorem State.raise_cfg (r : Fault) : (s.raise r).cfg = s.cfg := rfl
@[simp] theorem State.raise_commands (r : Fault) : (s.raise r).commands = s.commands := rfl
@[simp] theorem State.raise_draws (r : Fault) : (s.raise r).draws = s.draws := rfl
@[simp] theorem State.raise_inputs (r : Fault) : (s.raise r).inputs = s.inputs := rfl
@[simp] theorem State.raise_tick (r : Fault) : (s.raise r).tick = s.tick := rfl
@[simp] theorem State.raise_rendererLevels (r : Fault) : (s.raise r).rendererLevels = s.rendererLevels := rfl
@[simp] theorem State.raise_pinTick (r : Fault) : (s.raise r).pinTick = s.pinTick := rfl

/-! `takeDraws` writes draws, inputs, tick and nothing else. -/

@[simp] theorem State.takeDraws_chan : s.takeDraws.chan = s.chan := rfl
@[simp] theorem State.takeDraws_phase : s.takeDraws.phase = s.phase := rfl
@[simp] theorem State.takeDraws_muxSel : s.takeDraws.muxSel = s.muxSel := rfl
@[simp] theorem State.takeDraws_outAudio : s.takeDraws.outAudio = s.outAudio := rfl
@[simp] theorem State.takeDraws_outCv : s.takeDraws.outCv = s.outCv := rfl
@[simp] theorem State.takeDraws_outPulse : s.takeDraws.outPulse = s.outPulse := rfl
@[simp] theorem State.takeDraws_outLed : s.takeDraws.outLed = s.outLed := rfl
@[simp] theorem State.takeDraws_cvPwm : s.takeDraws.cvPwm = s.cvPwm := rfl
@[simp] theorem State.takeDraws_ledPwm : s.takeDraws.ledPwm = s.ledPwm := rfl
@[simp] theorem State.takeDraws_pulseOutLevel : s.takeDraws.pulseOutLevel = s.pulseOutLevel := rfl
@[simp] theorem State.takeDraws_dacCsN : s.takeDraws.dacCsN = s.dacCsN := rfl
@[simp] theorem State.takeDraws_spiTrace : s.takeDraws.spiTrace = s.spiTrace := rfl
@[simp] theorem State.takeDraws_dacCode : s.takeDraws.dacCode = s.dacCode := rfl
@[simp] theorem State.takeDraws_eventTrace : s.takeDraws.eventTrace = s.eventTrace := rfl
@[simp] theorem State.takeDraws_dacLock : s.takeDraws.dacLock = s.dacLock := rfl
@[simp] theorem State.takeDraws_pulsesRetired : s.takeDraws.pulsesRetired = s.pulsesRetired := rfl
@[simp] theorem State.takeDraws_fault : s.takeDraws.fault = s.fault := rfl
@[simp] theorem State.takeDraws_result : s.takeDraws.result = s.result := rfl
@[simp] theorem State.takeDraws_cfg : s.takeDraws.cfg = s.cfg := rfl
@[simp] theorem State.takeDraws_commands : s.takeDraws.commands = s.commands := rfl
@[simp] theorem State.takeDraws_draws : s.takeDraws.draws = s.nextDraws := rfl
@[simp] theorem State.takeDraws_inputs : s.takeDraws.inputs = s.inputs.tail := rfl
@[simp] theorem State.takeDraws_tick : s.takeDraws.tick = s.tick + 1 := rfl
@[simp] theorem State.takeDraws_rendererLevels : s.takeDraws.rendererLevels = s.rendererLevels := rfl
@[simp] theorem State.takeDraws_pinTick : s.takeDraws.pinTick = s.pinTick := rfl

/-! `takeRendererLevel` writes rendererLevels, pinTick and nothing else. -/

@[simp] theorem State.takeRendererLevel_chan : s.takeRendererLevel.chan = s.chan := rfl
@[simp] theorem State.takeRendererLevel_phase : s.takeRendererLevel.phase = s.phase := rfl
@[simp] theorem State.takeRendererLevel_muxSel : s.takeRendererLevel.muxSel = s.muxSel := rfl
@[simp] theorem State.takeRendererLevel_outAudio : s.takeRendererLevel.outAudio = s.outAudio := rfl
@[simp] theorem State.takeRendererLevel_outCv : s.takeRendererLevel.outCv = s.outCv := rfl
@[simp] theorem State.takeRendererLevel_outPulse : s.takeRendererLevel.outPulse = s.outPulse := rfl
@[simp] theorem State.takeRendererLevel_outLed : s.takeRendererLevel.outLed = s.outLed := rfl
@[simp] theorem State.takeRendererLevel_cvPwm : s.takeRendererLevel.cvPwm = s.cvPwm := rfl
@[simp] theorem State.takeRendererLevel_ledPwm : s.takeRendererLevel.ledPwm = s.ledPwm := rfl
@[simp] theorem State.takeRendererLevel_pulseOutLevel : s.takeRendererLevel.pulseOutLevel = s.pulseOutLevel := rfl
@[simp] theorem State.takeRendererLevel_dacCsN : s.takeRendererLevel.dacCsN = s.dacCsN := rfl
@[simp] theorem State.takeRendererLevel_spiTrace : s.takeRendererLevel.spiTrace = s.spiTrace := rfl
@[simp] theorem State.takeRendererLevel_dacCode : s.takeRendererLevel.dacCode = s.dacCode := rfl
@[simp] theorem State.takeRendererLevel_eventTrace : s.takeRendererLevel.eventTrace = s.eventTrace := rfl
@[simp] theorem State.takeRendererLevel_dacLock : s.takeRendererLevel.dacLock = s.dacLock := rfl
@[simp] theorem State.takeRendererLevel_pulsesRetired : s.takeRendererLevel.pulsesRetired = s.pulsesRetired := rfl
@[simp] theorem State.takeRendererLevel_fault : s.takeRendererLevel.fault = s.fault := rfl
@[simp] theorem State.takeRendererLevel_result : s.takeRendererLevel.result = s.result := rfl
@[simp] theorem State.takeRendererLevel_cfg : s.takeRendererLevel.cfg = s.cfg := rfl
@[simp] theorem State.takeRendererLevel_commands : s.takeRendererLevel.commands = s.commands := rfl
@[simp] theorem State.takeRendererLevel_draws : s.takeRendererLevel.draws = s.draws := rfl
@[simp] theorem State.takeRendererLevel_inputs : s.takeRendererLevel.inputs = s.inputs := rfl
@[simp] theorem State.takeRendererLevel_tick : s.takeRendererLevel.tick = s.tick := rfl
@[simp] theorem State.takeRendererLevel_rendererLevels : s.takeRendererLevel.rendererLevels = s.rendererLevels.tail := rfl
@[simp] theorem State.takeRendererLevel_pinTick : s.takeRendererLevel.pinTick = s.pinTick + 1 := rfl

/-! `popCommand` writes commands and nothing else. -/

@[simp] theorem State.popCommand_chan : s.popCommand.chan = s.chan := rfl
@[simp] theorem State.popCommand_phase : s.popCommand.phase = s.phase := rfl
@[simp] theorem State.popCommand_muxSel : s.popCommand.muxSel = s.muxSel := rfl
@[simp] theorem State.popCommand_outAudio : s.popCommand.outAudio = s.outAudio := rfl
@[simp] theorem State.popCommand_outCv : s.popCommand.outCv = s.outCv := rfl
@[simp] theorem State.popCommand_outPulse : s.popCommand.outPulse = s.outPulse := rfl
@[simp] theorem State.popCommand_outLed : s.popCommand.outLed = s.outLed := rfl
@[simp] theorem State.popCommand_cvPwm : s.popCommand.cvPwm = s.cvPwm := rfl
@[simp] theorem State.popCommand_ledPwm : s.popCommand.ledPwm = s.ledPwm := rfl
@[simp] theorem State.popCommand_pulseOutLevel : s.popCommand.pulseOutLevel = s.pulseOutLevel := rfl
@[simp] theorem State.popCommand_dacCsN : s.popCommand.dacCsN = s.dacCsN := rfl
@[simp] theorem State.popCommand_spiTrace : s.popCommand.spiTrace = s.spiTrace := rfl
@[simp] theorem State.popCommand_dacCode : s.popCommand.dacCode = s.dacCode := rfl
@[simp] theorem State.popCommand_eventTrace : s.popCommand.eventTrace = s.eventTrace := rfl
@[simp] theorem State.popCommand_dacLock : s.popCommand.dacLock = s.dacLock := rfl
@[simp] theorem State.popCommand_pulsesRetired : s.popCommand.pulsesRetired = s.pulsesRetired := rfl
@[simp] theorem State.popCommand_fault : s.popCommand.fault = s.fault := rfl
@[simp] theorem State.popCommand_result : s.popCommand.result = s.result := rfl
@[simp] theorem State.popCommand_cfg : s.popCommand.cfg = s.cfg := rfl
@[simp] theorem State.popCommand_commands : s.popCommand.commands = s.commands.tail := rfl
@[simp] theorem State.popCommand_draws : s.popCommand.draws = s.draws := rfl
@[simp] theorem State.popCommand_inputs : s.popCommand.inputs = s.inputs := rfl
@[simp] theorem State.popCommand_tick : s.popCommand.tick = s.tick := rfl
@[simp] theorem State.popCommand_rendererLevels : s.popCommand.rendererLevels = s.rendererLevels := rfl
@[simp] theorem State.popCommand_pinTick : s.popCommand.pinTick = s.pinTick := rfl

/-! `pushCommand` writes commands and nothing else. -/

@[simp] theorem State.pushCommand_chan (w : CmdWord) : (s.pushCommand w).chan = s.chan := rfl
@[simp] theorem State.pushCommand_phase (w : CmdWord) : (s.pushCommand w).phase = s.phase := rfl
@[simp] theorem State.pushCommand_muxSel (w : CmdWord) : (s.pushCommand w).muxSel = s.muxSel := rfl
@[simp] theorem State.pushCommand_outAudio (w : CmdWord) : (s.pushCommand w).outAudio = s.outAudio := rfl
@[simp] theorem State.pushCommand_outCv (w : CmdWord) : (s.pushCommand w).outCv = s.outCv := rfl
@[simp] theorem State.pushCommand_outPulse (w : CmdWord) : (s.pushCommand w).outPulse = s.outPulse := rfl
@[simp] theorem State.pushCommand_outLed (w : CmdWord) : (s.pushCommand w).outLed = s.outLed := rfl
@[simp] theorem State.pushCommand_cvPwm (w : CmdWord) : (s.pushCommand w).cvPwm = s.cvPwm := rfl
@[simp] theorem State.pushCommand_ledPwm (w : CmdWord) : (s.pushCommand w).ledPwm = s.ledPwm := rfl
@[simp] theorem State.pushCommand_pulseOutLevel (w : CmdWord) : (s.pushCommand w).pulseOutLevel = s.pulseOutLevel := rfl
@[simp] theorem State.pushCommand_dacCsN (w : CmdWord) : (s.pushCommand w).dacCsN = s.dacCsN := rfl
@[simp] theorem State.pushCommand_spiTrace (w : CmdWord) : (s.pushCommand w).spiTrace = s.spiTrace := rfl
@[simp] theorem State.pushCommand_dacCode (w : CmdWord) : (s.pushCommand w).dacCode = s.dacCode := rfl
@[simp] theorem State.pushCommand_eventTrace (w : CmdWord) : (s.pushCommand w).eventTrace = s.eventTrace := rfl
@[simp] theorem State.pushCommand_dacLock (w : CmdWord) : (s.pushCommand w).dacLock = s.dacLock := rfl
@[simp] theorem State.pushCommand_pulsesRetired (w : CmdWord) : (s.pushCommand w).pulsesRetired = s.pulsesRetired := rfl
@[simp] theorem State.pushCommand_fault (w : CmdWord) : (s.pushCommand w).fault = s.fault := rfl
@[simp] theorem State.pushCommand_result (w : CmdWord) : (s.pushCommand w).result = s.result := rfl
@[simp] theorem State.pushCommand_cfg (w : CmdWord) : (s.pushCommand w).cfg = s.cfg := rfl
@[simp] theorem State.pushCommand_commands (w : CmdWord) : (s.pushCommand w).commands = w :: s.commands := rfl
@[simp] theorem State.pushCommand_draws (w : CmdWord) : (s.pushCommand w).draws = s.draws := rfl
@[simp] theorem State.pushCommand_inputs (w : CmdWord) : (s.pushCommand w).inputs = s.inputs := rfl
@[simp] theorem State.pushCommand_tick (w : CmdWord) : (s.pushCommand w).tick = s.tick := rfl
@[simp] theorem State.pushCommand_rendererLevels (w : CmdWord) : (s.pushCommand w).rendererLevels = s.rendererLevels := rfl
@[simp] theorem State.pushCommand_pinTick (w : CmdWord) : (s.pushCommand w).pinTick = s.pinTick := rfl

end Sys2Proof.Machine
end

