-- ==== Sys2Proof/Laws/Ops.lean ====
section
/-! SUPPORT. The shared operations that choose: the lock attempt, a read-back, the next draws, the observation of a pulse pin. -/

namespace Sys2Proof.Machine

variable (s : State)

/-- A held lock is never acquired (R152). -/
theorem State.tryAcquire_held (h : s.dacLock = true) : s.tryAcquire = false := by simp [State.tryAcquire, h]

/-- A free lock is acquired as the draw says (R152). -/
theorem State.tryAcquire_draw (h : s.dacLock = false) (hm : s.cfg.dacLockModel = .draw) : s.tryAcquire = s.draws.acq := by
  simp [State.tryAcquire, h, hm]

/-- Under the single-writer premise a free lock is always acquired (D14). -/
theorem State.tryAcquire_always (h : s.dacLock = false) (hm : s.cfg.dacLockModel = .always) : s.tryAcquire = true := by
  simp [State.tryAcquire, h, hm]

/-- The attempt looks at the lock, the draws and the configuration only. -/
theorem State.tryAcquire_congr {s s' : State} (h₁ : s.dacLock = s'.dacLock) (h₂ : s.draws = s'.draws) (h₃ : s.cfg = s'.cfg) :
    s.tryAcquire = s'.tryAcquire := by simp [State.tryAcquire, h₁, h₂, h₃]

@[simp] theorem State.readBack_some (v : U16) (r : Fault) : s.readBack (some v) r = s.returns v := rfl

@[simp] theorem State.readBack_none (r : Fault) : s.readBack none r = s.raise r := rfl

theorem State.nextDraws_script {d : Draws} {ds : List Draws} (h : s.inputs = d :: ds) : s.nextDraws = d := by
  simp [State.nextDraws, h]

theorem State.nextDraws_free (h : s.inputs = []) : s.nextDraws = Config.freeDraws s.tick := by
  simp [State.nextDraws, h]

theorem State.nextRendererLevel_script {b : Bool} {bs : List Bool} (h : s.rendererLevels = b :: bs) :
    s.nextRendererLevel = b := by simp [State.nextRendererLevel, h]

theorem State.nextRendererLevel_free (h : s.rendererLevels = []) :
    s.nextRendererLevel = Config.freePinLevel s.pinTick := by simp [State.nextRendererLevel, h]

/-- Observing a driven pin gives what the block drives and changes nothing. -/
theorem State.observePulsePin_driven {n : Fin 2} {high : Bool} (h : s.pulseOutLevel[n] = .driven high) :
    s.observePulsePin n = (high, s) := by simp [State.observePulsePin, h]

/-- Observing a released pin takes the renderer's next level. -/
theorem State.observePulsePin_released {n : Fin 2} (h : s.pulseOutLevel[n] = .released) :
    s.observePulsePin n = (s.nextRendererLevel, s.takeRendererLevel) := by simp [State.observePulsePin, h]

end Sys2Proof.Machine
end

