-- ==== Sys2Proof/Laws/Dac.lean ====
section
/-! SUPPORT. What a DAC transfer does, acquired and skipped (42_dacdriver.md rules R153, R154). -/

namespace Sys2Proof.Machine

variable (s : State) (ch : Fin 2) (code : U12)

/-- The transfer's whole effect once the lock is acquired: two bytes, the shadow code, chip select high again and the
lock free again (R153). -/
theorem State.transmit_eq :
    s.transmit ch code =
      { s with
        dacCsN := true
        spiTrace := s.spiTrace ++ [frameHigh (dacFrame s.cfg ch code), frameLow (dacFrame s.cfg ch code)]
        dacCode := s.dacCode.set ch (some code)
        dacLock := false } := by
  simp [State.transmit, State.setDacLock, State.setDacCsN, State.spiSend, State.setDacCode]

/-- The skip's whole effect: one event (R154). -/
theorem State.skipTransfer_eq :
    s.skipTransfer ch code = { s with eventTrace := s.eventTrace ++ [.dacSkip ch code] } := rfl

theorem State.dacTransfer_acquired (h : s.tryAcquire = true) : s.dacTransfer ch code = s.transmit ch code := by
  simp [State.dacTransfer, h]

theorem State.dacTransfer_skipped (h : s.tryAcquire = false) : s.dacTransfer ch code = s.skipTransfer ch code := by
  simp [State.dacTransfer, h]

/-- Everything a transfer can do: send the frame, or log the skip. -/
theorem State.dacTransfer_cases :
    (s.tryAcquire = true ∧ s.dacTransfer ch code =
      { s with
        dacCsN := true
        spiTrace := s.spiTrace ++ [frameHigh (dacFrame s.cfg ch code), frameLow (dacFrame s.cfg ch code)]
        dacCode := s.dacCode.set ch (some code)
        dacLock := false }) ∨
    (s.tryAcquire = false ∧ s.dacTransfer ch code =
      { s with eventTrace := s.eventTrace ++ [.dacSkip ch code] }) := by
  cases h : s.tryAcquire
  · exact .inr ⟨rfl, by rw [s.dacTransfer_skipped ch code h, s.skipTransfer_eq]⟩
  · exact .inl ⟨rfl, by rw [s.dacTransfer_acquired ch code h, s.transmit_eq]⟩

/-! What a transfer leaves alone either way. -/

@[simp] theorem State.dacTransfer_chan : (s.dacTransfer ch code).chan = s.chan := by
  rcases s.dacTransfer_cases ch code with ⟨-, h⟩ | ⟨-, h⟩ <;> rw [h]
@[simp] theorem State.dacTransfer_phase : (s.dacTransfer ch code).phase = s.phase := by
  rcases s.dacTransfer_cases ch code with ⟨-, h⟩ | ⟨-, h⟩ <;> rw [h]
@[simp] theorem State.dacTransfer_muxSel : (s.dacTransfer ch code).muxSel = s.muxSel := by
  rcases s.dacTransfer_cases ch code with ⟨-, h⟩ | ⟨-, h⟩ <;> rw [h]
@[simp] theorem State.dacTransfer_outAudio : (s.dacTransfer ch code).outAudio = s.outAudio := by
  rcases s.dacTransfer_cases ch code with ⟨-, h⟩ | ⟨-, h⟩ <;> rw [h]
@[simp] theorem State.dacTransfer_outCv : (s.dacTransfer ch code).outCv = s.outCv := by
  rcases s.dacTransfer_cases ch code with ⟨-, h⟩ | ⟨-, h⟩ <;> rw [h]
@[simp] theorem State.dacTransfer_outPulse : (s.dacTransfer ch code).outPulse = s.outPulse := by
  rcases s.dacTransfer_cases ch code with ⟨-, h⟩ | ⟨-, h⟩ <;> rw [h]
@[simp] theorem State.dacTransfer_outLed : (s.dacTransfer ch code).outLed = s.outLed := by
  rcases s.dacTransfer_cases ch code with ⟨-, h⟩ | ⟨-, h⟩ <;> rw [h]
@[simp] theorem State.dacTransfer_cvPwm : (s.dacTransfer ch code).cvPwm = s.cvPwm := by
  rcases s.dacTransfer_cases ch code with ⟨-, h⟩ | ⟨-, h⟩ <;> rw [h]
@[simp] theorem State.dacTransfer_ledPwm : (s.dacTransfer ch code).ledPwm = s.ledPwm := by
  rcases s.dacTransfer_cases ch code with ⟨-, h⟩ | ⟨-, h⟩ <;> rw [h]
@[simp] theorem State.dacTransfer_pulseOutLevel : (s.dacTransfer ch code).pulseOutLevel = s.pulseOutLevel := by
  rcases s.dacTransfer_cases ch code with ⟨-, h⟩ | ⟨-, h⟩ <;> rw [h]
@[simp] theorem State.dacTransfer_pulsesRetired : (s.dacTransfer ch code).pulsesRetired = s.pulsesRetired := by
  rcases s.dacTransfer_cases ch code with ⟨-, h⟩ | ⟨-, h⟩ <;> rw [h]
@[simp] theorem State.dacTransfer_fault : (s.dacTransfer ch code).fault = s.fault := by
  rcases s.dacTransfer_cases ch code with ⟨-, h⟩ | ⟨-, h⟩ <;> rw [h]
@[simp] theorem State.dacTransfer_result : (s.dacTransfer ch code).result = s.result := by
  rcases s.dacTransfer_cases ch code with ⟨-, h⟩ | ⟨-, h⟩ <;> rw [h]
@[simp] theorem State.dacTransfer_cfg : (s.dacTransfer ch code).cfg = s.cfg := by
  rcases s.dacTransfer_cases ch code with ⟨-, h⟩ | ⟨-, h⟩ <;> rw [h]
@[simp] theorem State.dacTransfer_commands : (s.dacTransfer ch code).commands = s.commands := by
  rcases s.dacTransfer_cases ch code with ⟨-, h⟩ | ⟨-, h⟩ <;> rw [h]
@[simp] theorem State.dacTransfer_draws : (s.dacTransfer ch code).draws = s.draws := by
  rcases s.dacTransfer_cases ch code with ⟨-, h⟩ | ⟨-, h⟩ <;> rw [h]
@[simp] theorem State.dacTransfer_inputs : (s.dacTransfer ch code).inputs = s.inputs := by
  rcases s.dacTransfer_cases ch code with ⟨-, h⟩ | ⟨-, h⟩ <;> rw [h]
@[simp] theorem State.dacTransfer_tick : (s.dacTransfer ch code).tick = s.tick := by
  rcases s.dacTransfer_cases ch code with ⟨-, h⟩ | ⟨-, h⟩ <;> rw [h]

/-- The frame's first byte is its high byte as a number (R54). -/
theorem frameHigh_toNat (f : U16) : (frameHigh f).toNat = f.toNat / 256 := by
  simp only [frameHigh, BitVec.extractLsb'_toNat, Nat.shiftRight_eq_div_pow]
  omega

/-- The frame's second byte is its low byte as a number (R54). -/
theorem frameLow_toNat (f : U16) : (frameLow f).toNat = f.toNat % 256 := by
  simp [frameLow, BitVec.extractLsb'_toNat]

end Sys2Proof.Machine
end

