-- ==== Sys2Proof/Laws/Decode.lean ====
section
/-! SUPPORT. The fields of a word and the operand forms of the decoder. -/

namespace Sys2Proof

/-- Taking a composed word apart gives its fields back. -/
@[simp] theorem Command.ofWord_toWord (c : Command) : Command.ofWord c.toWord = c := by
  obtain ⟨opc, idx, rsv, a, b⟩ := c
  simp only [Command.ofWord, Command.toWord, Command.mk.injEq]
  refine ⟨?_, ?_, ?_, ?_, ?_⟩ <;>
  · refine BitVec.eq_of_getLsbD_eq fun i hi => ?_
    simp only [BitVec.getLsbD_extractLsb', BitVec.getLsbD_append]
    interval_cases i <;> rfl

/-- Composing the fields of a word gives the word back. -/
@[simp] theorem Command.toWord_ofWord (w : CmdWord) : (Command.ofWord w).toWord = w := by
  simp only [Command.ofWord, Command.toWord]
  ext i hi
  simp only [BitVec.getElem_append, BitVec.getElem_extractLsb']
  split <;> (try split) <;> (try split) <;> (try split) <;>
    (rw [← BitVec.getLsbD_eq_getElem]; congr 1; omega)

theorem Command.index_of_lt {c : Command} {n : Nat} (h : c.idx.toNat < n) (k : Fin n → Decoded) :
    c.index n k = k ⟨c.idx.toNat, h⟩ := by
  simp [Command.index, h]

theorem Command.index_of_not_lt {c : Command} {n : Nat} (h : ¬ c.idx.toNat < n) (k : Fin n → Decoded) :
    c.index n k = .error .indexOutOfRange := by
  simp [Command.index, h]

theorem Command.noIndex_zero {c : Command} (h : c.idx = 0) (k : Decoded) : c.noIndex k = k := by
  simp [Command.noIndex, h]

theorem Command.noB_zero {c : Command} (h : c.b = 0) (k : Decoded) : c.noB k = k := by
  simp [Command.noB, h]

theorem Command.noAB_zero {c : Command} (ha : c.a = 0) (hb : c.b = 0) (k : Decoded) : c.noAB k = k := by
  simp [Command.noAB, ha, Command.noB_zero hb]

/-- An index written to the IDX field is read back as it is (R72). -/
theorem idxField_toNat {n : Nat} (hn : n ≤ 16) (k : Fin n) : (idxField k).toNat = k.val := by
  simp only [idxField, BitVec.toNat_ofNat]
  exact Nat.mod_eq_of_lt (by omega)

/-- The decoder's index form reads an encoded index as it is. -/
theorem Command.index_idxField {c : Command} {n : Nat} (hn : n ≤ 16) (k : Fin n) (h : c.idx = idxField k)
    (f : Fin n → Decoded) : c.index n f = f k := by
  have hk : c.idx.toNat = k.val := h ▸ idxField_toNat hn k
  rw [Command.index_of_lt (hk ▸ k.isLt)]
  congr 1
  exact Fin.ext hk

/-- The decoder's code form reads an encoded DAC code as it is. -/
theorem Command.code_zeroExtend {c : Command} (x : U12) (h : c.a = x.zeroExtend 16) (f : U12 → Decoded) : c.code f = f x := by
  have hx : c.a.toNat = x.toNat := by
    simp only [h, BitVec.toNat_setWidth]
    omega
  rw [Command.code, if_pos (by omega), hx, BitVec.ofNat_toNat, BitVec.setWidth_eq]

/-- The decoder's boolean form reads an encoded boolean as it is. -/
theorem Command.bool_boolField {c : Command} (b : Bool) (h : c.a = boolField b) (f : Bool → Decoded) : c.bool f = f b := by
  cases b <;> simp [Command.bool, h, boolField]

/-- A word whose RSV is not 0 is rejected by that name (R73). -/
theorem decode_reserved {w : CmdWord} (h : (Command.ofWord w).rsv ≠ 0) : decode w = .error .reservedNonzero := by
  simp only [decode]
  exact if_neg h

end Sys2Proof
end

