-- ==== Sys2Proof/Laws/Scaler.lean ====
section
/-! SUPPORT. The mappings as numbers: what each narrowed value is as a natural. -/

namespace Sys2Proof.Machine

@[simp] theorem invert16_toNat (v : U16) : (invert16 v).toNat = 65535 - v.toNat := by
  simp only [invert16, BitVec.toNat_ofNat]
  omega

theorem clamp_of_le {v hi : Nat} (h : v ≤ hi) : clamp v 0 hi = v := by simp [clamp, h]

/-- The square of a 16-bit value divided by 65535 is 16 bits wide, so gamma's clamp changes nothing (R128). -/
theorem gamma_le (x : U16) : x.toNat ^ 2 / 65535 ≤ 65535 := by
  have hx : x.toNat ≤ 65535 := by omega
  calc x.toNat ^ 2 / 65535 ≤ 65535 ^ 2 / 65535 := Nat.div_le_div_right (Nat.pow_le_pow_left hx 2)
    _ = 65535 := by norm_num

theorem resultOfCode_toNat (x : U12) : (resultOfCode x).toNat = x.toNat := by
  simp only [resultOfCode, BitVec.toNat_ofNat]
  omega

theorem resultOfPhase_toNat (p : BitVec 2) : (resultOfPhase p).toNat = p.toNat := by
  simp only [resultOfPhase, BitVec.toNat_ofNat]
  omega

end Sys2Proof.Machine
end

