-- ==== Sys2Proof/Laws/Mux.lean ====
section
/-! SUPPORT. What the rounding can answer, and what servicing a slot and one scan do to each field. -/

namespace Sys2Proof.Machine

/-- A tie takes one of the two neighbours (R101). -/
theorem tieBreak_cases (t : SmoothTie) (up : Bool) (lo : Nat) : tieBreak t up lo = lo ∨ tieBreak t up lo = lo + 1 := by
  cases t <;> simp only [tieBreak]
  · cases up <;> simp
  · simp
  · simp
  · omega

/-- The rounding is the lower neighbour, up to the half, or the upper one, from the half (R101). -/
theorem roundNearest_cases (t : SmoothTie) (up : Bool) (n den : Nat) :
    (roundNearest t up n den = n / den ∧ 2 * (n % den) ≤ den) ∨
      (roundNearest t up n den = n / den + 1 ∧ den ≤ 2 * (n % den)) := by
  simp only [roundNearest]
  split
  · exact .inl ⟨rfl, by omega⟩
  · split
    · exact .inr ⟨rfl, by omega⟩
    · rcases tieBreak_cases t up (n / den) with h | h
      · exact .inl ⟨h, by omega⟩
      · exact .inr ⟨h, by omega⟩

/-- The two slots of a phase differ (R100: "`ca` and `cb` are always different slots"). -/
theorem slotA_ne_slotB (p q : BitVec 2) : slotA p ≠ slotB q := by
  simp only [slotA, slotB, ne_eq, Fin.mk.injEq]
  omega

section Service
variable (s : State) (slot : Fin 8) (up : Bool) (r : U16)

/-- Servicing a slot is one write to ChannelTable. -/
theorem State.service_eq :
    s.service slot up r = s.setChan slot (smooth s.cfg up s.chan[slot] (muxSample s.cfg slot r)) := rfl

/-- Servicing a slot leaves every other slot as it was. -/
theorem State.service_getElem (c : Fin 8) :
    (s.service slot up r).chan[c] = if c = slot then smooth s.cfg up s.chan[c] (muxSample s.cfg c r) else s.chan[c] := by
  simp only [State.service_eq, State.setChan_chan, Fin.getElem_fin, Vector.getElem_set, Fin.val_inj]
  by_cases h : c = slot
  · subst h
    simp
  · simp [h, Ne.symm h]

@[simp] theorem State.service_cfg : (s.service slot up r).cfg = s.cfg := rfl

@[simp] theorem State.service_draws : (s.service slot up r).draws = s.draws := rfl

end Service

/-- A scan writes the phase, the select lines and ChannelTable, and nothing else (R100). -/
theorem State.scan_frame (s : State) :
    s.scan = { s with phase := s.phase + 1, muxSel := s.phase + 1, chan := s.scan.chan } := rfl

@[simp] theorem State.scan_phase (s : State) : s.scan.phase = s.phase + 1 := rfl
@[simp] theorem State.scan_muxSel (s : State) : s.scan.muxSel = s.phase + 1 := rfl
@[simp] theorem State.scan_outAudio (s : State) : s.scan.outAudio = s.outAudio := rfl
@[simp] theorem State.scan_outCv (s : State) : s.scan.outCv = s.outCv := rfl
@[simp] theorem State.scan_outPulse (s : State) : s.scan.outPulse = s.outPulse := rfl
@[simp] theorem State.scan_outLed (s : State) : s.scan.outLed = s.outLed := rfl
@[simp] theorem State.scan_cvPwm (s : State) : s.scan.cvPwm = s.cvPwm := rfl
@[simp] theorem State.scan_ledPwm (s : State) : s.scan.ledPwm = s.ledPwm := rfl
@[simp] theorem State.scan_pulseOutLevel (s : State) : s.scan.pulseOutLevel = s.pulseOutLevel := rfl
@[simp] theorem State.scan_dacCsN (s : State) : s.scan.dacCsN = s.dacCsN := rfl
@[simp] theorem State.scan_spiTrace (s : State) : s.scan.spiTrace = s.spiTrace := rfl
@[simp] theorem State.scan_dacCode (s : State) : s.scan.dacCode = s.dacCode := rfl
@[simp] theorem State.scan_eventTrace (s : State) : s.scan.eventTrace = s.eventTrace := rfl
@[simp] theorem State.scan_dacLock (s : State) : s.scan.dacLock = s.dacLock := rfl
@[simp] theorem State.scan_pulsesRetired (s : State) : s.scan.pulsesRetired = s.pulsesRetired := rfl
@[simp] theorem State.scan_fault (s : State) : s.scan.fault = s.fault := rfl
@[simp] theorem State.scan_result (s : State) : s.scan.result = s.result := rfl
@[simp] theorem State.scan_cfg (s : State) : s.scan.cfg = s.cfg := rfl
@[simp] theorem State.scan_commands (s : State) : s.scan.commands = s.commands := rfl
@[simp] theorem State.scan_draws (s : State) : s.scan.draws = s.draws := rfl
@[simp] theorem State.scan_inputs (s : State) : s.scan.inputs = s.inputs := rfl
@[simp] theorem State.scan_tick (s : State) : s.scan.tick = s.tick := rfl

/-- ChannelTable after a scan: the two slots of the new phase hold the smoothed samples (R100). -/
theorem State.scan_chan (s : State) (c : Fin 8) :
    s.scan.chan[c] =
      if c = slotB (s.phase + 1) then
        smooth s.cfg s.draws.tieB s.chan[c] (muxSample s.cfg c s.draws.adcMuxB)
      else if c = slotA (s.phase + 1) then
        smooth s.cfg s.draws.tieA s.chan[c] (muxSample s.cfg c s.draws.adcMuxA)
      else s.chan[c] := by
  have hne := slotA_ne_slotB (s.phase + 1) (s.phase + 1)
  unfold State.scan
  rw [State.service_getElem, State.service_getElem]
  by_cases hb : c = slotB (s.phase + 1)
  · simp only [if_pos hb, if_neg (hb ▸ hne.symm)]
    rfl
  · simp only [if_neg hb]
    rfl

end Sys2Proof.Machine
end

