-- ==== Sys2Proof/Laws/PerInstr.lean ====
section
/-! SUPPORT. One lemma per command about its encoding as fields: the fields the encoder gives a command are a legal
word's (30_encoding.md rules R73, R76). -/

namespace Sys2Proof.Laws.LegalFields

/-- The command's fields are legal by the table of rule R76. -/
@[reducible] def Statement (i : Instr) : Prop := i.fields.wellFormed = true

/-- Fields are legal when some row has the selector and each operand is in the row's range. -/
theorem of_row (r : OpcodeRow) {idx : BitVec 4} {a b : U16} (hr : r ∈ opcodeMap) (hi : idx.toNat < r.idxCount)
    (ha : a.toNat ≤ r.aMax) (hb : b.toNat ≤ r.bMax) : Command.wellFormed ⟨r.opc, idx, 0, a, b⟩ = true :=
  List.any_eq_true.mpr ⟨r, hr, by simp [Command.fits, Command.rsvOk, Command.idxOk, Command.aOk, Command.bOk, hi, ha, hb]⟩

/-- An index fits its field. -/
theorem index_lt {n : Nat} (k : Fin n) (hn : n ≤ 16) : (idxField k).toNat < n := by
  rw [idxField_toNat hn]
  exact k.isLt

/-- Every 16-bit operand is in the 16-bit range. -/
theorem value_le (v : U16) : v.toNat ≤ 65535 := by omega

/-- A DAC code in the A field is at most 4095. -/
theorem code_le (x : U12) : (x.zeroExtend 16).toNat ≤ 4095 := by
  simp only [BitVec.truncate_eq_setWidth, BitVec.toNat_setWidth]
  omega

/-- A boolean in the A field is at most 1. -/
theorem bool_le (b : Bool) : (boolField b).toNat ≤ 1 := by cases b <;> decide

theorem update : Statement .update := by decide
theorem rdAudioIn (n : Fin 2) : Statement (.rdAudioIn n) := by revert n; decide
theorem rdCvIn (n : Fin 2) : Statement (.rdCvIn n) := by revert n; decide
theorem rdKnob (n : Fin 3) : Statement (.rdKnob n) := by revert n; decide
theorem rdSwitch : Statement .rdSwitch := by decide
theorem rdPulseIn (n : Fin 2) : Statement (.rdPulseIn n) := by revert n; decide
theorem wrAudioOut (n : Fin 2) (v : U16) : Statement (.wrAudioOut n v) :=
  of_row ⟨0x10, 2, 65535, 0⟩ (by decide) (index_lt n (by decide)) (value_le v) (by decide)
theorem wrCvOut (n : Fin 2) (v : U16) : Statement (.wrCvOut n v) :=
  of_row ⟨0x11, 2, 65535, 0⟩ (by decide) (index_lt n (by decide)) (value_le v) (by decide)
theorem wrPulseOut (n : Fin 2) (b : Bool) : Statement (.wrPulseOut n b) :=
  of_row ⟨0x12, 2, 1, 0⟩ (by decide) (index_lt n (by decide)) (bool_le b) (by decide)
theorem wrLed (k : Fin 6) (x : U16) : Statement (.wrLed k x) :=
  of_row ⟨0x13, 6, 65535, 0⟩ (by decide) (index_lt k (by decide)) (value_le x) (by decide)
theorem rdAudioOut (n : Fin 2) : Statement (.rdAudioOut n) := by revert n; decide
theorem rdCvOut (n : Fin 2) : Statement (.rdCvOut n) := by revert n; decide
theorem rdPulseOut (n : Fin 2) : Statement (.rdPulseOut n) := by revert n; decide
theorem rdLed (k : Fin 6) : Statement (.rdLed k) := by revert k; decide
theorem dacWrite (ch : Fin 2) (code : U12) : Statement (.dacWrite ch code) :=
  of_row ⟨0x20, 2, 4095, 0⟩ (by decide) (index_lt ch (by decide)) (code_le code) (by decide)
theorem convertPulses : Statement .convertPulses := by decide
theorem fSmooth (old raw : U16) : Statement (.fSmooth old raw) :=
  of_row ⟨0x30, 1, 65535, 65535⟩ (by decide) (by decide) (value_le old) (value_le raw)
theorem fDacScale (v : U16) : Statement (.fDacScale v) :=
  of_row ⟨0x31, 1, 65535, 0⟩ (by decide) (by decide) (value_le v) (by decide)
theorem fPwmScale (v : U16) : Statement (.fPwmScale v) :=
  of_row ⟨0x32, 1, 65535, 0⟩ (by decide) (by decide) (value_le v) (by decide)
theorem fPwmDecode (d : U16) : Statement (.fPwmDecode d) :=
  of_row ⟨0x33, 1, 65535, 0⟩ (by decide) (by decide) (value_le d) (by decide)
theorem fInInvert (r : U16) : Statement (.fInInvert r) :=
  of_row ⟨0x34, 1, 65535, 0⟩ (by decide) (by decide) (value_le r) (by decide)
theorem fRect (r : U16) : Statement (.fRect r) :=
  of_row ⟨0x35, 1, 65535, 0⟩ (by decide) (by decide) (value_le r) (by decide)
theorem fGamma (x : U16) : Statement (.fGamma x) :=
  of_row ⟨0x36, 1, 65535, 0⟩ (by decide) (by decide) (value_le x) (by decide)
theorem fDacFrame (ch : Fin 2) (code : U12) : Statement (.fDacFrame ch code) :=
  of_row ⟨0x37, 2, 4095, 0⟩ (by decide) (index_lt ch (by decide)) (code_le code) (by decide)
theorem rdChan (i : Fin 8) : Statement (.rdChan i) := by revert i; decide
theorem rdPhase : Statement .rdPhase := by decide

end Sys2Proof.Laws.LegalFields
end

