-- ==== Sys2Proof/Laws/Step.lean ====
section
/-! SUPPORT. What one step can do: the stopped block, the waiting block, a rejected word, a command. -/

namespace Sys2Proof.Machine

theorem step_of_fault {s : State} {r : Fault} (h : s.fault = some r) : step s = .fault r := by
  simp [step, h]

theorem step_of_no_command {s : State} (hf : s.fault = none) (hc : s.commands = []) : step s = .next s.takeDraws := by
  simp [step, hf, State.nextCommand, hc]

theorem step_of_error {s : State} {w : CmdWord} {ws : List CmdWord} {e : Reject} (hf : s.fault = none)
    (hc : s.commands = w :: ws) (hd : decode w = .error e) : step s = .next (s.issued.raise (.illegalCommand w)) := by
  simp [step, hf, State.nextCommand, hc, hd]

/-- Everything a step that answers a next state can have done. -/
theorem step_cases {s t : State} (h : step s = .next t) :
    s.fault = none ∧
      ((s.commands = [] ∧ t = s.takeDraws) ∨
        (∃ w ws e, s.commands = w :: ws ∧ decode w = .error e ∧ t = s.issued.raise (.illegalCommand w)) ∨
        (∃ w ws i, s.commands = w :: ws ∧ decode w = .ok i ∧ exec i s.issued = .next t)) := by
  simp only [step] at h
  split at h
  · cases h
  · rename_i hf
    refine ⟨hf, ?_⟩
    simp only [State.nextCommand] at h
    cases hc : s.commands with
    | nil =>
      simp only [hc, List.head?_nil, Host.Outcome.next.injEq] at h
      exact .inl ⟨rfl, h.symm⟩
    | cons w ws =>
      simp only [hc, List.head?_cons] at h
      cases hd : decode w with
      | error e =>
        simp only [hd, Host.Outcome.next.injEq] at h
        exact .inr (.inl ⟨w, ws, e, rfl, hd, h.symm⟩)
      | ok i =>
        simp only [hd] at h
        exact .inr (.inr ⟨w, ws, i, rfl, hd, h⟩)

@[simp] theorem steps_zero (s : State) : steps 0 s = .next s := rfl

theorem steps_succ_of_next {s s' : State} (h : step s = .next s') (k : Nat) : steps (k + 1) s = steps k s' := by
  simp [steps, h]

/-- A run that goes on took a step that goes on. -/
theorem steps_succ_cases {k : Nat} {s t : State} (h : steps (k + 1) s = .next t) :
    ∃ s', step s = .next s' ∧ steps k s' = .next t := by
  simp only [steps] at h
  split at h
  · exact ⟨_, ‹_›, h⟩
  · cases h
  · cases h

theorem run_succ_of_next (M : Host.Core) {s s' : M.State} (h : M.step s = .next s') (k : Nat) :
    M.run (k + 1) s = M.run k s' := by
  simp [Host.Core.run, h]

theorem run_succ_of_fault (M : Host.Core) {s : M.State} {r : M.Fault} (h : M.step s = .fault r) (k : Nat) :
    M.run (k + 1) s = .fault r := by
  simp [Host.Core.run, h]

theorem run_succ_of_refused (M : Host.Core) {s : M.State} {r : M.Refusal} (h : M.step s = .refused r) (k : Nat) :
    M.run (k + 1) s = .refused r := by
  simp [Host.Core.run, h]

/-- The host's own run of the machine is the same run. -/
theorem core_run_eq_steps (k : Nat) : ∀ s : State, Sys2Proof.core.run k s = steps k s := by
  induction k with
  | zero => exact fun s => rfl
  | succ k ih =>
    intro s
    cases h : step s with
    | next s' => exact (run_succ_of_next Sys2Proof.core h k).trans ((ih s').trans (steps_succ_of_next h k).symm)
    | fault r => exact (run_succ_of_fault Sys2Proof.core h k).trans (by simp only [steps, h]; rfl)
    | refused r => exact (run_succ_of_refused Sys2Proof.core h k).trans (by simp only [steps, h]; rfl)

end Sys2Proof.Machine
end

