-- ==== Sys2Proof/Tests/Slice0.lean ====
section
/-! SUPPORT. The model's own tests. Expected results are those of spec/95_test_vectors.md and of the rules' worked
examples. Witnesses show that the hypotheses of each statement can be met together. -/

namespace Sys2Proof.Tests
open Sys2Proof Sys2Proof.Machine

/-! ### WellFormed refuses, check by check (30_encoding.md rule R73) -/

theorem test_wf_accepts_update : Command.wellFormed ⟨0x01, 0, 0, 0, 0⟩ = true := by decide
theorem test_wf_refuses_unlisted_opcode : Command.wellFormed ⟨0x07, 0, 0, 0, 0⟩ = false := by decide
theorem test_wf_refuses_reserved : Command.wellFormed ⟨0x01, 0, 1, 0, 0⟩ = false := by decide
theorem test_wf_refuses_index : Command.wellFormed ⟨0x04, 3, 0, 0, 0⟩ = false := by decide
theorem test_wf_refuses_unused_index : Command.wellFormed ⟨0x30, 1, 0, 0, 0⟩ = false := by decide
theorem test_wf_refuses_unused_a : Command.wellFormed ⟨0x39, 0, 0, 1, 0⟩ = false := by decide
theorem test_wf_refuses_unused_b : Command.wellFormed ⟨0x01, 0, 0, 0, 1⟩ = false := by decide
theorem test_wf_refuses_wide_code : Command.wellFormed ⟨0x20, 0, 0, 4096, 0⟩ = false := by decide
theorem test_wf_refuses_wide_bool : Command.wellFormed ⟨0x12, 0, 0, 2, 0⟩ = false := by decide

/-! ### Decode: one word per command, written out from rules R71, R76 and R82 -/

theorem test_decode_update : decode 0x010000000000 = .ok .update := rfl
theorem test_decode_rdAudioIn : decode 0x021000000000 = .ok (.rdAudioIn 1) := rfl
theorem test_decode_rdCvIn : decode 0x031000000000 = .ok (.rdCvIn 1) := rfl
theorem test_decode_rdKnob : decode 0x042000000000 = .ok (.rdKnob 2) := rfl
theorem test_decode_rdSwitch : decode 0x050000000000 = .ok .rdSwitch := rfl
theorem test_decode_rdPulseIn : decode 0x061000000000 = .ok (.rdPulseIn 1) := rfl
theorem test_decode_wrAudioOut : decode 0x1000B1DF0000 = .ok (.wrAudioOut 0 45535) := rfl
theorem test_decode_wrCvOut : decode 0x1110FFFF0000 = .ok (.wrCvOut 1 65535) := rfl
theorem test_decode_wrPulseOut : decode 0x120000010000 = .ok (.wrPulseOut 0 true) := rfl
theorem test_decode_wrLed : decode 0x13509C400000 = .ok (.wrLed 5 40000) := rfl
theorem test_decode_rdAudioOut : decode 0x181000000000 = .ok (.rdAudioOut 1) := rfl
theorem test_decode_rdCvOut : decode 0x191000000000 = .ok (.rdCvOut 1) := rfl
theorem test_decode_rdPulseOut : decode 0x1A0000000000 = .ok (.rdPulseOut 0) := rfl
theorem test_decode_rdLed : decode 0x1B5000000000 = .ok (.rdLed 5) := rfl
theorem test_decode_dacWrite : decode 0x201000640000 = .ok (.dacWrite 1 100) := rfl
theorem test_decode_convertPulses : decode 0x280000000000 = .ok .convertPulses := rfl
theorem test_decode_fSmooth : decode 0x300036B04E20 = .ok (.fSmooth 14000 20000) := rfl
theorem test_decode_fDacScale : decode 0x3100B1DF0000 = .ok (.fDacScale 45535) := rfl
theorem test_decode_fPwmScale : decode 0x3200FFFF0000 = .ok (.fPwmScale 65535) := rfl
theorem test_decode_fPwmDecode : decode 0x330030390000 = .ok (.fPwmDecode 12345) := rfl
theorem test_decode_fInInvert : decode 0x34004E200000 = .ok (.fInInvert 20000) := rfl
theorem test_decode_fRect : decode 0x3500C0000000 = .ok (.fRect 49152) := rfl
theorem test_decode_fGamma : decode 0x360080000000 = .ok (.fGamma 32768) := rfl
theorem test_decode_fDacFrame : decode 0x371007FF0000 = .ok (.fDacFrame 1 2047) := rfl
theorem test_decode_rdChan : decode 0x387000000000 = .ok (.rdChan 7) := rfl
theorem test_decode_rdPhase : decode 0x390000000000 = .ok .rdPhase := rfl

/-! Words 95_test_vectors.md calls illegal, each rejected by its name. -/

theorem test_decode_rejects_unlisted : decode 0x070000000000 = .error .unlistedOpcode := rfl
theorem test_decode_rejects_reserved : decode 0x010100000000 = .error .reservedNonzero := rfl
theorem test_decode_rejects_index : decode 0x043000000000 = .error .indexOutOfRange := rfl
theorem test_decode_rejects_unused_index : decode 0x301000000000 = .error .indexOutOfRange := rfl
theorem test_decode_rejects_unused_b : decode 0x010000000001 = .error .unusedNonzero := rfl
theorem test_decode_rejects_wide_code : decode 0x200010000000 = .error .codeTooWide := rfl
theorem test_decode_rejects_wide_bool : decode 0x120000020000 = .error .notBoolean := rfl
theorem test_decode_rejects_led_index : decode 0x136000010000 = .error .indexOutOfRange := rfl

/-! ### Assembler lines (rules R80, R81) -/

theorem test_asm_comment_and_decimal : assembleText "  wr_audio_out 0, 45535 ; set".toList = some [0x1000B1DF0000] := by decide
theorem test_asm_hexadecimal : assembleText "f_smooth 0x36B0, 0x4e20".toList = some [0x300036B04E20] := by decide
theorem test_asm_illegal_index_has_a_word : assembleText "rd_knob 0b11".toList = some [0x043000000000] := by decide
theorem test_asm_prime : assembleText "prime".toList = some (List.replicate 4 0x010000000000) := by decide
theorem test_asm_knob_y : assembleText "rd_knob_y".toList = some [0x042000000000] := by decide

/-! ### One step on a small state -/

/-- Draws a test chooses. -/
def draws : Draws where
  adcMuxA := 1000
  adcMuxB := 20000
  adcAudio := #v[20000, 0]
  pulseInLevel := #v[true, false]
  acq := true
  tieA := false
  tieB := true

/-- The default configuration with the suggested header of channel 1 (42_dacdriver.md rule R155). -/
def cfg : Config := { defaultConfig with dacCfg := #v[0x3000, 0xB000], spiBitOrder := .msbFirst }

/-- The block after reset, with the configuration and the draws fixed. -/
def base : State := { State.reset with cfg := cfg, inputs := [draws], draws := draws }

/-- A state in which every output was written and two slots were serviced. -/
def used : State :=
  { base with
    chan := #v[0, 0, 31875, 0, 0, 700, 0, 45874], phase := 3, outAudio := #v[some 45535, some 0], outCv := #v[some 65535, none],
    cvPwm := #v[0, 0], outLed := #v[none, none, none, none, none, some 32768], ledPwm := #v[0, 0, 0, 0, 0, 16384],
    outPulse := #v[false, true], pulseOutLevel := #v[.driven true, .driven false] }

/-- The block after CONVERT_PULSES. -/
def retired : State := { base with pulsesRetired := true, pulseOutLevel := #v[.released, .released] }

/-- The state after one step that takes the word `w`. -/
def after (s : State) (w : CmdWord) : Option State :=
  match step { s with commands := [w] } with
  | .next t => some t
  | .fault _ => none
  | .refused _ => none

/-- The result port after one step, where no fault was raised. -/
def result (s : State) (w : CmdWord) : Option U16 := (after s w).bind fun t => if t.fault = none then t.result else none

/-- The fault record after one step. -/
def fault (s : State) (w : CmdWord) : Option Fault := (after s w).bind (·.fault)

theorem test_update_from_reset :
    (after base 0x010000000000).map (fun t => (t.phase, t.muxSel, t.chan)) = some (1, 1, #v[0, 0, 0, 31875, 0, 700, 0, 0]) := by decide
theorem test_update_wraps :
    (after { used with inputs := [{ draws with adcMuxA := 40000, adcMuxB := 15535 }], chan := base.chan } 0x010000000000).map
      (fun t => (t.phase, t.chan)) = some (0, #v[0, 0, 35000, 0, 28000, 0, 0, 0]) := by decide
theorem test_rdAudioIn_inverts : result base 0x020000000000 = some 45535 := by decide
theorem test_rdCvIn_inverts : result used 0x030000000000 = some 33660 := by decide
theorem test_rdCvIn_at_reset : result base 0x030000000000 = some 65535 := by decide
theorem test_rdKnob : result used 0x041000000000 = some 700 := by decide
theorem test_rdSwitch : result used 0x050000000000 = some 45874 := by decide
theorem test_rdPulseIn_high_is_false : result base 0x060000000000 = some 0 := by decide
theorem test_rdPulseIn_low_is_true : result retired 0x061000000000 = some 1 := by decide
theorem test_wrAudioOut_sends :
    (after base 0x1000B1DF0000).map (fun t => (t.outAudio, t.dacCode, t.spiTrace, t.dacCsN, t.result)) =
      some (#v[some 45535, none], #v[some 1250, none], [0x34, 0xE2], true, none) := by decide
theorem test_wrAudioOut_skipped :
    (after { base with inputs := [{ draws with acq := false }] } 0x101000000000).map
      (fun t => (t.outAudio, t.spiTrace, t.eventTrace)) = some (#v[none, some 0], [], [.dacSkip 1 4095]) := by decide
theorem test_wrCvOut : (after base 0x111030390000).map (fun t => (t.outCv, t.cvPwm[1])) = some (#v[none, some 12345], 53190) := by decide
theorem test_wrPulseOut_true_is_low :
    (after base 0x120000010000).map (fun t => (t.outPulse[0], t.pulseOutLevel[0], (t.observePulsePin 0).1)) = some (true, .driven false, false) := by decide
theorem test_wrPulseOut_retired : fault retired 0x120000010000 = some (.pulseRetired 0x12 0) := by decide
theorem test_wrLed : (after base 0x135080000000).map (fun t => (t.outLed[5], t.ledPwm[5])) = some (some 32768, 16384) := by decide
theorem test_wrLed_inverted :
    (after { base with cfg := { cfg with ledInvert := true } } 0x135080000000).map (·.ledPwm[5]) = some 49151 := by decide
theorem test_rdAudioOut : result used 0x180000000000 = some 45535 := by decide
theorem test_rdAudioOut_unwritten : fault base 0x180000000000 = some (.unwrittenRead 0x18 0) := by decide
theorem test_rdCvOut : result used 0x190000000000 = some 65535 := by decide
theorem test_rdCvOut_unwritten : fault used 0x191000000000 = some (.unwrittenRead 0x19 1) := by decide
theorem test_rdPulseOut : result used 0x1A1000000000 = some 1 := by decide
theorem test_rdPulseOut_retired : fault retired 0x1A1000000000 = some (.pulseRetired 0x1A 1) := by decide
theorem test_rdLed_is_before_gamma : result used 0x1B5000000000 = some 32768 := by decide
theorem test_rdLed_unwritten : fault base 0x1B5000000000 = some (.unwrittenRead 0x1B 5) := by decide
theorem test_dacWrite_channel1 :
    (after base 0x201000640000).map (fun t => (t.spiTrace, t.dacCode, t.outAudio)) = some ([0xB0, 0x64], #v[none, some 100], #v[none, none]) := by decide
theorem test_dacWrite_held_lock :
    (after { base with dacLock := true } 0x200004E20000).map (fun t => (t.spiTrace, t.eventTrace)) = some ([], [.dacSkip 0 1250]) := by decide
theorem test_convertPulses :
    (after base 0x280000000000).map (fun t => (t.pulsesRetired, t.pulseOutLevel)) = some (true, #v[.released, .released]) := by decide
/-- Two observations of one released pin of a stopped block differ. -/
theorem test_released_pin_is_a_draw_each_time :
    let s := { retired with fault := some (.pulseRetired 0x12 0), rendererLevels := [true, false] }
    ((s.observePulsePin 0).1, ((s.observePulsePin 0).2.observePulsePin 0).1) = (true, false) := by decide
theorem test_fSmooth : result base 0x300036B04E20 = some 18200 := by decide
theorem test_fSmooth_tie_draw : result { base with inputs := [{ draws with tieA := true }] } 0x3000FFFF0000 = some 19661 := by decide
theorem test_fDacScale : result base 0x3100B1DF0000 = some 1250 := by decide
theorem test_fDacScale_block_edge : result base 0x3100FFEF0000 = some 1 := by decide
theorem test_fPwmScale : result base 0x320080000000 = some 32767 := by decide
theorem test_fPwmDecode : result base 0x330030390000 = some 53190 := by decide
theorem test_fInInvert : result base 0x34004E200000 = some 45535 := by decide
theorem test_fRect_at_center : result base 0x350080000000 = some 0 := by decide
theorem test_fRect_above_center : result base 0x350080010000 = some 2 := by decide
theorem test_fGamma_floor : result base 0x360000FF0000 = some 0 := by decide
theorem test_fGamma_near_top : result base 0x3600FFFE0000 = some 65533 := by decide
theorem test_fDacFrame : result base 0x370007FF0000 = some 0x37FF := by decide
theorem test_rdChan : result used 0x385000000000 = some 700 := by decide
theorem test_rdPhase : result used 0x390000000000 = some 3 := by decide
theorem test_illegal_word_faults :
    (after base 0x010000000001).map (fun t => (t.fault, t.phase)) = some (some (.illegalCommand 0x010000000001), 0) := by decide
theorem test_stopped_block_has_no_step : after { base with fault := some (.unwrittenRead 0x19 1) } 0x010000000000 = none := by decide
theorem test_withFetchWord_runs : ((match step (State.reset.withFetchWord 48 0x390000000000) with
    | .next t => t.result | .fault _ => none | .refused _ => none) : Option U16) = some 0 := by decide
theorem test_tie_half_to_even : (tieBreak .halfToEven true 31874, tieBreak .halfToEven false 19661) = (31874, 19662) := by decide
theorem test_wire_msb_first : wireBits .msbFirst 0x34 = [false, false, true, true, false, true, false, false] := by decide

/-! ### Witnesses: the hypotheses of each statement, met together -/

theorem witness_EncodeInvertsDecode : decode 0x1350FFFF0000 = .ok (.wrLed 5 65535) := rfl
theorem witness_StepRunsTheDecodedCommand :
    (base.Running ∧ { base with commands := [updateWord] }.commands = updateWord :: [] ∧ decode updateWord = .ok .update ∧
      base.inputs = draws :: []) ∧ { base with inputs := [] }.inputs = [] := ⟨⟨rfl, rfl, rfl, rfl⟩, rfl⟩
theorem witness_IssuedWordRunsNext : base.Running ∧ decode updateWord = .ok .update := ⟨rfl, rfl⟩
theorem witness_IllegalWordRaisesIllegalCommand :
    base.Running ∧ { base with commands := [0x070000000000] }.commands = 0x070000000000 :: [] ∧
      (Command.ofWord 0x070000000000).wellFormed = false := ⟨rfl, rfl, by decide⟩
theorem witness_StoppedBlockTakesNoCommand :
    { base with fault := some (.pulseRetired 0x12 0) }.fault = some (.pulseRetired 0x12 0) := rfl
theorem witness_WaitingBlockKeepsItsState : base.Running ∧ base.commands = [] := ⟨rfl, rfl⟩
theorem witness_FaultingCommandChangesNothingElse :
    ∃ t r, { base with commands := [0x180000000000] }.Running ∧ step { base with commands := [0x180000000000] } = .next t ∧ t.fault = some r :=
  ⟨_, _, rfl, rfl, rfl⟩
theorem witness_FaultsOnlyAsListed_write : ∃ t r, retired.Running ∧ exec (.wrPulseOut 1 true) retired = .next t ∧ t.fault = some r :=
  ⟨_, _, rfl, rfl, rfl⟩
theorem witness_FaultsOnlyAsListed_read : ∃ t r, retired.Running ∧ exec (.rdPulseOut 0) retired = .next t ∧ t.fault = some r :=
  ⟨_, _, rfl, rfl, rfl⟩
theorem witness_FaultsOnlyAsListed_audio : ∃ t r, base.Running ∧ exec (.rdAudioOut 1) base = .next t ∧ t.fault = some r :=
  ⟨_, _, rfl, rfl, rfl⟩
theorem witness_FaultsOnlyAsListed_cv : ∃ t r, used.Running ∧ exec (.rdCvOut 1) used = .next t ∧ t.fault = some r :=
  ⟨_, _, rfl, rfl, rfl⟩
theorem witness_FaultsOnlyAsListed_led : ∃ t r, used.Running ∧ exec (.rdLed 4) used = .next t ∧ t.fault = some r :=
  ⟨_, _, rfl, rfl, rfl⟩
theorem witness_UnwrittenReadBackFaults :
    base.outAudio[(1 : Fin 2)] = none ∧ base.outCv[(1 : Fin 2)] = none ∧ base.outLed[(5 : Fin 6)] = none := ⟨rfl, rfl, rfl⟩
theorem witness_RetiredPulseOutputFaults : retired.pulsesRetired = true := rfl
/-- Of CommandsAreTakenInOrder, PhaseAdvancesOnlyWithUpdate, TracesOnlyGrow and ConfigurationIsFixed. -/
theorem witness_step_next : ∃ t, step { base with commands := [updateWord, 0x390000000000] } = .next t := ⟨_, rfl⟩
/-- Of SmoothStaysBetweenOldAndRaw. -/
theorem witness_config : cfg.WellFormed := by decide
theorem witness_SmoothRoundsToNearest_tie :
    cfg.WellFormed ∧ cfg.smoothTie = .draw ∧
      2 * ((cfg.smoothNum * (5#16).toNat + (cfg.smoothDen - cfg.smoothNum) * (0#16).toNat) % cfg.smoothDen) = cfg.smoothDen := by decide
theorem witness_SmoothConvergesWithinTenServices :
    cfg.smoothNum = 3 ∧ cfg.smoothDen = 10 ∧ 10 ≤ (List.replicate 10 true).length := by decide
theorem witness_SmoothCommandReturnsTheRounding : base.cfg.WellFormed := by decide
theorem witness_PhaseCountsUpdateCommands :
    ∃ t, steps [updateWord].length { base with commands := [updateWord] } = .next t := ⟨_, rfl⟩
theorem witness_FourUpdatesServiceEverySlot :
    let s := { base with commands := List.replicate 4 updateWord, inputs := [draws, draws, draws, draws] }
    let d := fun _ : Nat => draws
    s.Running ∧ s.commands = List.replicate 4 updateWord ∧ s.inputs = [d 0, d 1, d 2, d 3] ∧
      (7 : Fin 8).val = 4 + (s.phase.toNat + 1 + 2) % 4 ∧ (2 : Fin 8).val = 2 + (s.phase.toNat + 1 + 1) % 2 := by
  exact ⟨rfl, rfl, rfl, rfl, rfl⟩
theorem witness_MuxInputsConverge :
    let s := { base with commands := List.replicate 40 updateWord, inputs := List.replicate 40 draws }
    s.Running ∧ s.cfg.smoothNum = 3 ∧ s.cfg.smoothDen = 10 ∧ 40 ≤ 40 ∧ s.commands = List.replicate 40 updateWord ∧
      s.inputs.length = 40 ∧ (∀ d ∈ s.inputs, d.adcMuxA = 1000 ∧ d.adcMuxB = 20000) ∧
      muxInvAt s.cfg (cvSlot 0) = true ∧ muxInvAt s.cfg (cvSlot 1) = true := by
  refine ⟨rfl, rfl, rfl, le_refl _, rfl, rfl, ?_, rfl, rfl⟩
  intro d hd
  rw [List.eq_of_mem_replicate hd]
  exact ⟨rfl, rfl⟩
theorem witness_OnlyUpdateWritesTheScanner : Instr.rdPhase ≠ .update ∧ ∃ t, exec .rdPhase base = .next t := ⟨by decide, _, rfl⟩
/-- Of DacScaleCommandReturnsTheCode and GammaIsMonotonicAndFixesTheEnds. -/
theorem witness_DacScale_order : (15 : U16).toNat ≤ (16 : U16).toNat := by decide
theorem witness_Rect_clauses : (32768 : U16).toNat ≤ 32768 ∧ 32768 < (32769 : U16).toNat := by decide
/-- Of DacWriteSendsTheFrame and AudioOutSendsTheScaledCode. -/
theorem witness_BusFree_draw : base.BusFree := ⟨rfl, fun _ => rfl⟩
theorem witness_BusFree_always :
    { base with cfg := { cfg with dacLockModel := .always }, draws := { draws with acq := false } }.BusFree :=
  ⟨rfl, fun h => by cases h⟩
/-- Of ContendedTransferIsSkippedAndLogged. -/
theorem witness_BusContended_held : { base with dacLock := true }.BusContended := .inl rfl
theorem witness_BusContended_draw : { base with draws := { draws with acq := false } }.BusContended := .inr ⟨rfl, rfl⟩
theorem witness_FrameIsHeaderOrCode :
    (Command.mk 0x37 1 0 4095 0).opc = 0x37 ∧ decode (Command.toWord ⟨0x37, 1, 0, 4095, 0⟩) = .ok (.fDacFrame 1 4095) := ⟨rfl, rfl⟩
theorem witness_OnlyTheDacDriverUsesTheBus :
    (∀ ch code, Instr.rdSwitch ≠ .dacWrite ch code) ∧ (∀ n v, Instr.rdSwitch ≠ .wrAudioOut n v) ∧ ∃ t, exec .rdSwitch base = .next t :=
  ⟨(by intro _ _ h; cases h), (by intro _ _ h; cases h), _, rfl⟩
/-- The two ends of WireBitsFollowTheBitOrder. -/
theorem witness_WireBits_ends : (0 : Nat) < 8 ∧ (7 : Nat) < 8 := by decide
/-- The clauses of EveryObservationOfAReleasedPinIsItsOwnDraw. -/
theorem witness_released_pins :
    let s := { retired with rendererLevels := [true, false] }
    (s.pulseOutLevel[(0 : Fin 2)] = .released ∧ s.pulseOutLevel[(1 : Fin 2)] = .released ∧ s.rendererLevels = true :: false :: []) ∧
      retired.rendererLevels = [] ∧ base.pulseOutLevel[(0 : Fin 2)] = .driven true := ⟨⟨rfl, rfl, rfl⟩, rfl, rfl⟩
/-- Of PulseLinesAreActiveLow, PulseOutReadsBackItsLogicalValue and WrittenValueIsReadBack. -/
theorem witness_pulses_owned : base.pulsesRetired = false := rfl
theorem witness_RetirementIsPermanent :
    ∃ t, step { retired with commands := [updateWord] } = .next t ∧ { retired with commands := [updateWord] }.pulsesRetired = true :=
  ⟨_, rfl, rfl⟩
theorem witness_ReadBacksReturnTheWrittenCell :
    used.outAudio[(1 : Fin 2)] = some 0 ∧ used.outCv[(0 : Fin 2)] = some 65535 ∧ used.outLed[(5 : Fin 6)] = some 32768 := ⟨rfl, rfl, rfl⟩
theorem witness_OutputStateIsWrittenOnlyByItsWriters :
    OutputsAgree base { base with chan := used.chan, draws := { draws with acq := false } } ∧
      (∃ t, exec (.wrCvOut 0 7) base = .next t) ∧ ∀ v, Instr.wrCvOut 0 7 ≠ .wrCvOut 1 v :=
  ⟨⟨rfl, rfl, rfl, rfl, rfl⟩, ⟨_, rfl⟩, (by intro v h; cases h)⟩
theorem witness_OutputPortsChangeOnlyWithTheirCommand :
    (∃ t, exec (.wrPulseOut 0 true) base = .next t) ∧ (∀ b, Instr.wrPulseOut 0 true ≠ .wrPulseOut 1 b) ∧
      Instr.wrPulseOut 0 true ≠ .convertPulses :=
  ⟨⟨_, rfl⟩, (by intro b h; cases h), by decide⟩
theorem witness_StateReadsAreIdempotent : isStateRead (.rdCvIn 0) ∧ ∃ t, exec (.rdCvIn 0) used = .next t := ⟨trivial, _, rfl⟩
theorem witness_EveryStepKeepsTheInvariant :
    { base with commands := [updateWord] }.Inv ∧ ∃ t, step { base with commands := [updateWord] } = .next t := by
  refine ⟨⟨by decide, rfl, rfl, rfl, ⟨rfl, rfl⟩, ?_, ?_, ?_, ?_⟩, _, rfl⟩
  · intro n v h
    simp [base, State.reset] at h
  · intro k x h
    simp [base, State.reset] at h
  · intro _ n
    simp [base, State.reset]
  · intro h
    cases h

end Sys2Proof.Tests
end

/-! What one command can do, said once, and what several UPDATE commands in a row do. The invariant, the retirement of the
pulse outputs, the configuration and the laws of the scan follow from these. -/

namespace Sys2Proof.Machine

/-! ### What a command can do -/

/-- The commands whose normal completion writes the result port and nothing else. -/
def returnsValue : Instr → Bool
  | .update | .wrAudioOut _ _ | .wrCvOut _ _ | .wrPulseOut _ _ | .wrLed _ _ | .dacWrite _ _ | .convertPulses => false
  | _ => true

/-- Which fault a command raises in a state (R233, R234). -/
inductive Raises (s : State) : Instr → Fault → Prop where
  | audio (n : Fin 2) (h : s.outAudio[n] = none) : Raises s (.rdAudioOut n) (.unwrittenRead 0x18 (recordedIdx n))
  | cv (n : Fin 2) (h : s.outCv[n] = none) : Raises s (.rdCvOut n) (.unwrittenRead 0x19 (recordedIdx n))
  | led (k : Fin 6) (h : s.outLed[k] = none) : Raises s (.rdLed k) (.unwrittenRead 0x1B (recordedIdx k))
  | wrPulse (n : Fin 2) (b : Bool) (h : s.pulsesRetired = true) :
      Raises s (.wrPulseOut n b) (.pulseRetired 0x12 (recordedIdx n))
  | rdPulse (n : Fin 2) (h : s.pulsesRetired = true) : Raises s (.rdPulseOut n) (.pulseRetired 0x1A (recordedIdx n))

/-- What a command can make of a state: it only returns a value, only faults, or is one of the seven that write cells. -/
inductive Effect (s : State) : Instr → State → Prop where
  | returns {i : Instr} (v : U16) (hi : returnsValue i = true) : Effect s i (s.returns v)
  | raises {i : Instr} {r : Fault} (h : Raises s i r) : Effect s i (s.raise r)
  | scan : Effect s .update s.scan.returnsNothing
  | audio (n : Fin 2) (v : U16) :
      Effect s (.wrAudioOut n v) ((s.setOutAudio n v).dacTransfer (dacChannel n) (dacScale v)).returnsNothing
  | cv (n : Fin 2) (v : U16) : Effect s (.wrCvOut n v) ((s.setOutCv n v).setCvPwm n (pwmScale v)).returnsNothing
  | pulse (n : Fin 2) (b : Bool) (h : s.pulsesRetired = false) :
      Effect s (.wrPulseOut n b) ((s.setOutPulse n b).setPulseLevel n (.driven (levelOfLogical b))).returnsNothing
  | led (k : Fin 6) (x : U16) : Effect s (.wrLed k x) ((s.setOutLed k x).setLedPwm k (ledDuty s.cfg x)).returnsNothing
  | dac (ch : Fin 2) (code : U12) : Effect s (.dacWrite ch code) (s.dacTransfer ch code).returnsNothing
  | convert :
      Effect s .convertPulses ((s.retirePulses.setPulseLevel 0 .released).setPulseLevel 1 .released).returnsNothing

/-- A read-back returns the cell's value, or faults where it holds none. -/
theorem Effect.readBack {s : State} {i : Instr} {r : Fault} (cell : Option U16) (hi : returnsValue i = true)
    (hr : cell = none → Raises s i r) : Effect s i (s.readBack cell r) := by
  cases cell with
  | some v => exact .returns v hi
  | none => exact .raises (hr rfl)

/-- Every next state `exec` answers is one of the effects of its command. -/
theorem exec_effect {i : Instr} {s t : State} (h : exec i s = .next t) : Effect s i t := by
  cases i <;> cases h
  case update => exact .scan
  case wrAudioOut n v => exact .audio n v
  case wrCvOut n v => exact .cv n v
  case wrLed k x => exact .led k x
  case dacWrite ch code => exact .dac ch code
  case convertPulses => exact .convert
  case rdAudioOut n => exact .readBack _ rfl (.audio n)
  case rdCvOut n => exact .readBack _ rfl (.cv n)
  case rdLed k => exact .readBack _ rfl (.led k)
  case wrPulseOut n b =>
    split
    · exact .raises (.wrPulse n b ‹_›)
    · exact .pulse n b (Bool.eq_false_of_not_eq_true ‹_›)
  case rdPulseOut n =>
    split
    · exact .raises (.rdPulse n ‹_›)
    · exact .returns _ rfl
  all_goals exact .returns _ rfl

/-- Every next state `step` answers: the block waited, rejected the word, or ran a command. -/
theorem step_effect {s t : State} (h : step s = .next t) :
    t = s.takeDraws ∨ (∃ w, t = s.issued.raise (.illegalCommand w)) ∨ ∃ i, Effect s.issued i t := by
  obtain ⟨-, ⟨-, ht⟩ | ⟨w, -, -, -, -, ht⟩ | ⟨-, -, i, -, -, hi⟩⟩ := step_cases h
  · exact .inl ht
  · exact .inr (.inl ⟨w, ht⟩)
  · exact .inr (.inr ⟨i, exec_effect hi⟩)

/-! ### The configuration -/

theorem Effect.cfg_eq {s t : State} {i : Instr} (h : Effect s i t) : t.cfg = s.cfg := by
  cases h <;> simp

/-- Settles O59: neither waiting nor a rejected word nor any command writes the configuration. -/
theorem configurationIsFixed : Obligations.ConfigurationIsFixed := by
  intro s t h
  obtain rfl | ⟨w, rfl⟩ | ⟨i, hi⟩ := step_effect h
  · rfl
  · rfl
  · exact hi.cfg_eq

/-! ### The retirement of the pulse outputs -/

/-- CONVERT_PULSES raises no fault (R231). -/
theorem Raises.ne_convertPulses {s : State} {i : Instr} {r : Fault} (h : Raises s i r) : i ≠ .convertPulses := by
  rintro rfl
  cases h

theorem ne_convertPulses_of_returnsValue {i : Instr} (h : returnsValue i = true) : i ≠ .convertPulses := by
  rintro rfl
  cases h

/-- After a command the outputs are retired when they were before it or it is CONVERT_PULSES (R37). -/
theorem Effect.pulsesRetired_eq {s t : State} {i : Instr} (h : Effect s i t) :
    t.pulsesRetired = (s.pulsesRetired || i = .convertPulses) := by
  cases h with
  | returns v hi => simp [ne_convertPulses_of_returnsValue hi]
  | raises hr => simp [hr.ne_convertPulses]
  | _ => simp

/-- A write of a retired pulse output faults (R234). -/
theorem exec_wrPulseOut_retired {s : State} (h : s.pulsesRetired = true) (n : Fin 2) (b : Bool) :
    exec (.wrPulseOut n b) s = .next (s.raise (.pulseRetired 0x12 (recordedIdx n))) := by
  simp [exec, execWrPulseOut, h]

/-- A read of a retired pulse output faults (R234). -/
theorem exec_rdPulseOut_retired {s : State} (h : s.pulsesRetired = true) (n : Fin 2) :
    exec (.rdPulseOut n) s = .next (s.raise (.pulseRetired 0x1A (recordedIdx n))) := by
  simp [exec, execRdPulseOut, h]

theorem State.not_running_raise (s : State) (r : Fault) : ¬ (s.raise r).Running := by simp

/-- Settles O46: commands change retirement only as CONVERT_PULSES does, and a retired output's use faults. -/
theorem retirementIsPermanent : Obligations.RetirementIsPermanent := by
  refine ⟨rfl, fun s t h hs => ?_, fun s t n hs => ⟨fun b h => ?_, fun h => ?_⟩,
    fun i s t h => (exec_effect h).pulsesRetired_eq⟩
  · obtain rfl | ⟨w, rfl⟩ | ⟨i, hi⟩ := step_effect h
    · exact hs
    · exact hs
    · simp [hi.pulsesRetired_eq, hs]
  · cases (exec_wrPulseOut_retired hs n b).symm.trans h
    exact s.not_running_raise _
  · cases (exec_rdPulseOut_retired hs n).symm.trans h
    exact s.not_running_raise _

/-! ### The invariant -/

/-- A relation between the entries of two vectors outlives a write of related values at one index. -/
theorem forall_getElem_set₂ {α β : Type} {k : Nat} {R : α → β → Prop} {as : Vector α k} {bs : Vector β k}
    (h : ∀ m : Fin k, R as[m] bs[m]) (n : Fin k) {a : α} {b : β} (hn : R a b) (m : Fin k) :
    R (as.set n a)[m] (bs.set n b)[m] := by
  by_cases hm : n = m
  · subst hm
    simpa using hn
  · have hv : n.val ≠ m.val := Fin.val_ne_of_ne hm
    simpa [Vector.getElem_set_ne, hv] using h m

theorem pwmScale_toNat (v : U16) : (pwmScale v).toNat = 65535 - v.toNat := by
  have hv : v.toNat ≤ 65535 := by omega
  simp only [pwmScale, clamp_of_le hv, BitVec.toNat_ofNat]
  omega

/-- A scan never touches the two slots no phase fills (R22). -/
theorem State.scan_chan_unassigned (s : State) (c : Fin 8) (hc : c.val < 2) : s.scan.chan[c] = s.chan[c] := by
  have hA : c ≠ slotA (s.phase + 1) := Fin.ne_of_val_ne (by simp only [slotA]; omega)
  have hB : c ≠ slotB (s.phase + 1) := Fin.ne_of_val_ne (by simp only [slotB]; omega)
  rw [s.scan_chan, if_neg hB, if_neg hA]

section KeepsInv
variable {s : State} (h : s.Inv)
include h

theorem State.Inv.takeDraws : s.takeDraws.Inv := { h with }

theorem State.Inv.popCommand : s.popCommand.Inv := { h with }

theorem State.Inv.returns (v : U16) : (s.returns v).Inv := { h with }

theorem State.Inv.returnsNothing : s.returnsNothing.Inv := { h with }

theorem State.Inv.raise (r : Fault) : (s.raise r).Inv := { h with }

theorem State.Inv.setOutAudio (n : Fin 2) (v : U16) : (s.setOutAudio n v).Inv := { h with }

theorem State.Inv.scan : s.scan.Inv :=
  { h with
    slotsUnassigned :=
      ⟨(s.scan_chan_unassigned 0 (by decide)).trans h.slotsUnassigned.1,
        (s.scan_chan_unassigned 1 (by decide)).trans h.slotsUnassigned.2⟩ }

/-- A transfer sends its two bytes and gives the lock back, or only reports (R153, R154). -/
theorem State.Inv.dacTransfer (ch : Fin 2) (code : U12) : (s.dacTransfer ch code).Inv := by
  obtain ⟨-, ht⟩ | ⟨-, ht⟩ := s.dacTransfer_cases ch code <;> rw [ht]
  · exact { h with
      lockFree := rfl
      chipSelectHigh := rfl
      bytesInPairs := by simp [h.bytesInPairs] }
  · exact { h with }

theorem State.Inv.writeCv (n : Fin 2) (v : U16) : ((s.setOutCv n v).setCvPwm n (pwmScale v)).Inv :=
  { h with
    cvDuty := forall_getElem_set₂ (R := fun (cell : Option U16) (d : U16) => ∀ w, cell = some w → d.toNat = 65535 - w.toNat)
      h.cvDuty n (by rintro w ⟨⟩; exact pwmScale_toNat v) }

theorem State.Inv.writeLed (k : Fin 6) (x : U16) : ((s.setOutLed k x).setLedPwm k (ledDuty s.cfg x)).Inv :=
  { h with
    ledDuties := forall_getElem_set₂ (R := fun (cell : Option U16) (d : U16) => ∀ y, cell = some y → d = ledDuty s.cfg y)
      h.ledDuties k (by rintro y ⟨⟩; rfl) }

theorem State.Inv.writePulse (hr : s.pulsesRetired = false) (n : Fin 2) (b : Bool) :
    ((s.setOutPulse n b).setPulseLevel n (.driven (levelOfLogical b))).Inv :=
  { h with
    pulsesActiveLow := fun _ =>
      forall_getElem_set₂ (R := fun (logical : Bool) (level : PinLevel) => level = .driven (!logical))
        (h.pulsesActiveLow hr) n rfl
    pulsesReleased := fun ht => absurd (hr.symm.trans ht) Bool.false_ne_true }

theorem State.Inv.convertPulses : ((s.retirePulses.setPulseLevel 0 .released).setPulseLevel 1 .released).Inv :=
  { h with
    pulsesActiveLow := by simp
    pulsesReleased := fun _ => Fin.forall_fin_two.mpr (by simp) }

/-- Every command keeps the invariant. -/
theorem Effect.keeps_inv {t : State} {i : Instr} (he : Effect s i t) : t.Inv := by
  cases he with
  | returns v _ => exact h.returns v
  | raises _ => exact h.raise _
  | scan => exact h.scan.returnsNothing
  | audio n v => exact ((h.setOutAudio n v).dacTransfer _ _).returnsNothing
  | cv n v => exact (h.writeCv n v).returnsNothing
  | pulse n b hr => exact (h.writePulse hr n b).returnsNothing
  | led k x => exact (h.writeLed k x).returnsNothing
  | dac ch code => exact (h.dacTransfer ch code).returnsNothing
  | convert => exact h.convertPulses.returnsNothing

end KeepsInv

/-- Settles O58: waiting, rejecting a word and each effect of a command keep the invariant. -/
theorem everyStepKeepsTheInvariant : Obligations.EveryStepKeepsTheInvariant := by
  intro s t hs h
  have hissued : s.issued.Inv := hs.takeDraws.popCommand
  obtain rfl | ⟨w, rfl⟩ | ⟨i, hi⟩ := step_effect h
  · exact hs.takeDraws
  · exact hissued.raise _
  · exact hi.keeps_inv hissued

/-! ### One scan -/

theorem invert16_eq_sub (v : U16) : invert16 v = 65535#16 - v := by
  have hv : v.toNat ≤ 65535 := by omega
  apply BitVec.eq_of_toNat_eq
  rw [invert16_toNat, BitVec.toNat_sub_of_le (by simpa [BitVec.le_def] using hv)]
  rfl

theorem eq_slotA_iff {c : Fin 8} {p : BitVec 2} : c = slotA p ↔ c.val = 4 + p.toNat := Fin.ext_iff

theorem eq_slotB_iff {c : Fin 8} {p : BitVec 2} : c = slotB p ↔ c.val = 2 + p.toNat % 2 := Fin.ext_iff

/-- ChannelTable after a scan by slot numbers, the first bus's slot first (R100). -/
theorem State.scan_chan_val (s : State) (c : Fin 8) :
    s.scan.chan[c] =
      if c.val = 4 + (s.phase + 1).toNat then smooth s.cfg s.draws.tieA s.chan[c] (muxSample s.cfg c s.draws.adcMuxA)
      else if c.val = 2 + (s.phase + 1).toNat % 2 then
        smooth s.cfg s.draws.tieB s.chan[c] (muxSample s.cfg c s.draws.adcMuxB)
      else s.chan[c] := by
  simp only [s.scan_chan, eq_slotA_iff, eq_slotB_iff]
  by_cases hA : c.val = 4 + (s.phase + 1).toNat
  · have hB : c.val ≠ 2 + (s.phase + 1).toNat % 2 := by omega
    rw [if_neg hB, if_pos hA, if_pos hA]
  · simp only [if_neg hA]

theorem phase_succ_toNat (p : BitVec 2) : (p + 1).toNat = (p.toNat + 1) % 4 := by
  rw [BitVec.toNat_add]
  rfl

/-- Settles O17: UPDATE is one scan; an inverted sample is the difference from 65535. -/
theorem updateServicesTheNewPhase : Obligations.UpdateServicesTheNewPhase := by
  refine fun s => ⟨s.scan.returnsNothing, rfl, rfl, phase_succ_toNat s.phase, rfl, fun c => ?_⟩
  have hc := s.scan_chan_val c
  simp only [muxSample, invert16_eq_sub] at hc
  exact hc

/-! ### UPDATE commands in a row -/

/-- What a step that takes an UPDATE command makes of a state. -/
def State.afterUpdate (s : State) : State := s.issued.scan.returnsNothing

@[simp] theorem State.afterUpdate_phase (s : State) : s.afterUpdate.phase = s.phase + 1 := rfl
@[simp] theorem State.afterUpdate_cfg (s : State) : s.afterUpdate.cfg = s.cfg := rfl
@[simp] theorem State.afterUpdate_fault (s : State) : s.afterUpdate.fault = s.fault := rfl
@[simp] theorem State.afterUpdate_commands (s : State) : s.afterUpdate.commands = s.commands.tail := rfl
@[simp] theorem State.afterUpdate_inputs (s : State) : s.afterUpdate.inputs = s.inputs.tail := rfl

/-- A running block decodes the host's next command and runs it. -/
theorem step_of_ok {s : State} {w : CmdWord} {ws : List CmdWord} {i : Instr} (hf : s.Running) (hc : s.commands = w :: ws)
    (hd : decode w = .ok i) : step s = exec i s.issued := by
  simp [step, hf, State.nextCommand, hc, hd]

theorem decode_updateWord : decode updateWord = .ok .update := rfl

theorem step_update {s : State} {ws : List CmdWord} (hf : s.Running) (hc : s.commands = updateWord :: ws) :
    step s = .next s.afterUpdate := step_of_ok hf hc decode_updateWord

/-- A run of UPDATE commands completes, in the state of as many scans. -/
theorem completes_updates (n : Nat) {s : State} (hf : s.Running) (hc : s.commands = List.replicate n updateWord) :
    Completes n s (State.afterUpdate^[n] s) := by
  induction n generalizing s with
  | zero => exact ⟨rfl, hf⟩
  | succ n ih =>
    have hrest : Completes n s.afterUpdate (State.afterUpdate^[n] s.afterUpdate) := ih hf (by simp [hc])
    exact ⟨(steps_succ_of_next (step_update hf hc) n).trans hrest.1, hrest.2⟩

theorem updates_phase_toNat (n : Nat) (s : State) :
    (State.afterUpdate^[n] s).phase.toNat = (s.phase.toNat + n) % 4 := by
  induction n with
  | zero => simp only [Function.iterate_zero, id_eq]; omega
  | succ n ih =>
    rw [Function.iterate_succ_apply', State.afterUpdate_phase, phase_succ_toNat, ih]
    omega

theorem updates_cfg (n : Nat) (s : State) : (State.afterUpdate^[n] s).cfg = s.cfg := by
  induction n with
  | zero => rfl
  | succ n ih => rw [Function.iterate_succ_apply', State.afterUpdate_cfg, ih]

theorem updates_inputs (n : Nat) (s : State) : (State.afterUpdate^[n] s).inputs = s.inputs.drop n := by
  induction n with
  | zero => rfl
  | succ n ih => rw [Function.iterate_succ_apply', State.afterUpdate_inputs, ih, List.tail_drop]

/-- Settles O22: each UPDATE advances the phase by one modulo 4. -/
theorem phaseAfterNUpdatesFromReset : Obligations.PhaseAfterNUpdatesFromReset := by
  refine ⟨rfl, fun N => ⟨_, completes_updates N rfl rfl, ?_⟩⟩
  rw [updates_phase_toNat]
  exact congrArg (· % 4) (Nat.zero_add N)

/-- What the UPDATE command after `n` others makes of a slot, given its draw record (R100, R107). -/
theorem updates_chan_succ {n : Nat} {s : State} {d : Draws} {ds : List Draws} (hd : s.inputs.drop n = d :: ds) (c : Fin 8) :
    (State.afterUpdate^[n + 1] s).chan[c] =
      if c.val = 4 + (s.phase.toNat + n + 1) % 4 then
        smooth s.cfg d.tieA (State.afterUpdate^[n] s).chan[c] (muxSample s.cfg c d.adcMuxA)
      else if c.val = 2 + (s.phase.toNat + n + 1) % 2 then
        smooth s.cfg d.tieB (State.afterUpdate^[n] s).chan[c] (muxSample s.cfg c d.adcMuxB)
      else (State.afterUpdate^[n] s).chan[c] := by
  have hdraws : (State.afterUpdate^[n] s).nextDraws = d := State.nextDraws_script _ ((updates_inputs n s).trans hd)
  have hphase : ((State.afterUpdate^[n] s).phase + 1).toNat = (s.phase.toNat + n + 1) % 4 := by
    rw [phase_succ_toNat, updates_phase_toNat]
    omega
  have hbit : (s.phase.toNat + n + 1) % 4 % 2 = (s.phase.toNat + n + 1) % 2 := by omega
  rw [Function.iterate_succ_apply', State.afterUpdate, State.returnsNothing_chan, State.scan_chan_val]
  simp only [State.popCommand_phase, State.popCommand_cfg, State.popCommand_draws, State.popCommand_chan,
    State.takeDraws_phase, State.takeDraws_cfg, State.takeDraws_draws, State.takeDraws_chan, updates_cfg, hdraws, hphase,
    hbit]

/-- Settles O25: of the four commands exactly one services a slot 4 to 7, and two, two apart, a slot 2 or 3. -/
theorem fourUpdatesServiceEverySlot : Obligations.FourUpdatesServiceEverySlot := by
  intro s d hf hc hin
  have h₀ := updates_chan_succ (n := 0) (s := s) (congrArg (List.drop 0) hin)
  have h₁ := updates_chan_succ (n := 1) (s := s) (congrArg (List.drop 1) hin)
  have h₂ := updates_chan_succ (n := 2) (s := s) (congrArg (List.drop 2) hin)
  have h₃ := updates_chan_succ (n := 3) (s := s) (congrArg (List.drop 3) hin)
  refine ⟨_, completes_updates 4 hf hc, BitVec.eq_of_toNat_eq ?_, fun j c hj hcj => ?_, fun j c hj hcj => ?_,
    fun c hlow => ?_⟩
  · rw [updates_phase_toNat]
    omega
  · interval_cases j <;> simp (disch := omega) only [h₃, h₂, h₁, h₀, if_pos, if_neg] <;> rfl
  · interval_cases j <;> simp (disch := omega) only [h₃, h₂, h₁, h₀, if_pos, if_neg] <;> rfl
  · simp (disch := omega) only [h₃, h₂, h₁, h₀, if_neg]
    rfl

/-! ### Reset -/

/-- Settles O56: every cell and port at reset is written out in `State.reset`. -/
theorem resetLeavesTheStatedValues : Obligations.ResetLeavesTheStatedValues := by
  refine ⟨fun c => ?_, rfl, fun n => ?_, fun k => ?_, rfl, rfl, rfl, rfl, rfl, rfl, rfl⟩
  · exact Vector.getElem_replicate c.isLt
  · simp [State.reset]
  · exact Vector.getElem_replicate k.isLt

end Sys2Proof.Machine

/-! What the decoder accepts: the fields of an accepted word are the fields of the command it gives, so UPDATE has one
word. -/

namespace Sys2Proof

/-! ### What each operand form accepts -/

section Forms
variable {c : Command} {i : Instr}

/-- A check of the decoder passes its continuation on, or rejects. -/
theorem ite_error_eq_ok {p : Prop} [Decidable p] {k : Decoded} {e : Reject} :
    (if p then k else .error e) = .ok i ↔ p ∧ k = .ok i := by
  by_cases h : p <;> simp [h]

theorem Command.noIndex_eq_ok {k : Decoded} : c.noIndex k = .ok i ↔ c.idx = 0 ∧ k = .ok i := ite_error_eq_ok

theorem Command.noB_eq_ok {k : Decoded} : c.noB k = .ok i ↔ c.b = 0 ∧ k = .ok i := ite_error_eq_ok

theorem Command.noAB_eq_ok {k : Decoded} : c.noAB k = .ok i ↔ c.a = 0 ∧ c.b = 0 ∧ k = .ok i :=
  ite_error_eq_ok.trans (and_congr_right fun _ => Command.noB_eq_ok)

/-- An accepted index is the one the IDX field encodes (R72, R73). -/
theorem Command.exists_of_index_eq_ok {n : Nat} {k : Fin n → Decoded} (h : c.index n k = .ok i) :
    ∃ m, c.idx = idxField m ∧ k m = .ok i := by
  by_cases hn : c.idx.toNat < n
  · have hidx : idxField ⟨c.idx.toNat, hn⟩ = c.idx := (BitVec.ofNat_toNat 4 c.idx).trans (BitVec.setWidth_eq c.idx)
    exact ⟨_, hidx.symm, (Command.index_of_lt hn k).symm.trans h⟩
  · cases (Command.index_of_not_lt hn k).symm.trans h

/-- An accepted DAC code is the one the A field encodes (R72). -/
theorem Command.exists_of_code_eq_ok {k : U12 → Decoded} (h : c.code k = .ok i) :
    ∃ x : U12, c.a = x.zeroExtend 16 ∧ k x = .ok i := by
  obtain ⟨ha, hk⟩ := ite_error_eq_ok.mp h
  refine ⟨_, BitVec.eq_of_toNat_eq ?_, hk⟩
  simp only [BitVec.truncate_eq_setWidth, BitVec.toNat_setWidth, BitVec.toNat_ofNat]
  omega

/-- An accepted boolean is the one the A field encodes (R72). -/
theorem Command.exists_of_bool_eq_ok {k : Bool → Decoded} (h : c.bool k = .ok i) :
    ∃ b, c.a = boolField b ∧ k b = .ok i := by
  obtain ⟨ha, hk⟩ := ite_error_eq_ok.mp h
  refine ⟨_, ?_, hk⟩
  by_cases h1 : c.a = 1
  · simp [h1, boolField]
  · have h0 : c.a = 0 := by bv_omega
    simp [h0, boolField]

end Forms

/-! ### The fields of an accepted word -/

section Fields
variable {c : Command} {i : Instr} {o : BitVec 8} (ho : c.opc.toNat = o.toNat) (hr : c.rsv = 0)
include ho hr

/-- A selector, RSV 0 and three operand fields make up the whole command (R71). -/
theorem Command.eq_mk {idx : BitVec 4} {a b : U16} (hi : c.idx = idx) (ha : c.a = a) (hb : c.b = b) :
    (⟨o, idx, 0, a, b⟩ : Command) = c := by
  obtain ⟨opc, _, _, _, _⟩ := c
  cases BitVec.eq_of_toNat_eq ho
  cases hr
  cases hi
  cases ha
  cases hb
  rfl

theorem Command.fields_of_formNone {j : Instr} (hj : j.fields = ⟨o, 0, 0, 0, 0⟩) (h : c.formNone j = .ok i) :
    i.fields = c := by
  obtain ⟨hi, hk⟩ := Command.noIndex_eq_ok.mp h
  obtain ⟨ha, hb, ⟨⟩⟩ := Command.noAB_eq_ok.mp hk
  exact hj.trans (Command.eq_mk ho hr hi ha hb)

theorem Command.fields_of_formIdx {n : Nat} {f : Fin n → Instr}
    (hf : ∀ k, (f k).fields = ⟨o, idxField k, 0, 0, 0⟩) (h : c.formIdx n f = .ok i) : i.fields = c := by
  obtain ⟨k, hi, hk⟩ := Command.exists_of_index_eq_ok h
  obtain ⟨ha, hb, ⟨⟩⟩ := Command.noAB_eq_ok.mp hk
  exact (hf k).trans (Command.eq_mk ho hr hi ha hb)

theorem Command.fields_of_formIdxVal {n : Nat} {f : Fin n → U16 → Instr}
    (hf : ∀ k v, (f k v).fields = ⟨o, idxField k, 0, v, 0⟩) (h : c.formIdxVal n f = .ok i) : i.fields = c := by
  obtain ⟨k, hi, hk⟩ := Command.exists_of_index_eq_ok h
  obtain ⟨hb, ⟨⟩⟩ := Command.noB_eq_ok.mp hk
  exact (hf k c.a).trans (Command.eq_mk ho hr hi rfl hb)

theorem Command.fields_of_formIdxBool {n : Nat} {f : Fin n → Bool → Instr}
    (hf : ∀ k b, (f k b).fields = ⟨o, idxField k, 0, boolField b, 0⟩) (h : c.formIdxBool n f = .ok i) :
    i.fields = c := by
  obtain ⟨k, hi, hk⟩ := Command.exists_of_index_eq_ok h
  obtain ⟨hb, hk⟩ := Command.noB_eq_ok.mp hk
  obtain ⟨b, ha, ⟨⟩⟩ := Command.exists_of_bool_eq_ok hk
  exact (hf k b).trans (Command.eq_mk ho hr hi ha hb)

theorem Command.fields_of_formIdxCode {n : Nat} {f : Fin n → U12 → Instr}
    (hf : ∀ k x, (f k x).fields = ⟨o, idxField k, 0, x.zeroExtend 16, 0⟩) (h : c.formIdxCode n f = .ok i) :
    i.fields = c := by
  obtain ⟨k, hi, hk⟩ := Command.exists_of_index_eq_ok h
  obtain ⟨hb, hk⟩ := Command.noB_eq_ok.mp hk
  obtain ⟨x, ha, ⟨⟩⟩ := Command.exists_of_code_eq_ok hk
  exact (hf k x).trans (Command.eq_mk ho hr hi ha hb)

theorem Command.fields_of_formVal {f : U16 → Instr} (hf : ∀ v, (f v).fields = ⟨o, 0, 0, v, 0⟩)
    (h : c.formVal f = .ok i) : i.fields = c := by
  obtain ⟨hi, hk⟩ := Command.noIndex_eq_ok.mp h
  obtain ⟨hb, ⟨⟩⟩ := Command.noB_eq_ok.mp hk
  exact (hf c.a).trans (Command.eq_mk ho hr hi rfl hb)

theorem Command.fields_of_formValVal {f : U16 → U16 → Instr} (hf : ∀ v w, (f v w).fields = ⟨o, 0, 0, v, w⟩)
    (h : c.formValVal f = .ok i) : i.fields = c := by
  obtain ⟨hi, ⟨⟩⟩ := Command.noIndex_eq_ok.mp h
  exact (hf c.a c.b).trans (Command.eq_mk ho hr hi rfl rfl)

end Fields

/-- The row the OPC selects gives a command whose fields are the word's (R76). -/
theorem Command.fields_of_select {c : Command} {i : Instr} (hr : c.rsv = 0) (h : c.select = .ok i) : i.fields = c := by
  simp only [Command.select] at h
  split at h
  case h_1 ho => exact fields_of_formNone (o := 0x01) ho hr rfl h
  case h_2 ho => exact fields_of_formIdx (o := 0x02) ho hr (fun _ => rfl) h
  case h_3 ho => exact fields_of_formIdx (o := 0x03) ho hr (fun _ => rfl) h
  case h_4 ho => exact fields_of_formIdx (o := 0x04) ho hr (fun _ => rfl) h
  case h_5 ho => exact fields_of_formNone (o := 0x05) ho hr rfl h
  case h_6 ho => exact fields_of_formIdx (o := 0x06) ho hr (fun _ => rfl) h
  case h_7 ho => exact fields_of_formIdxVal (o := 0x10) ho hr (fun _ _ => rfl) h
  case h_8 ho => exact fields_of_formIdxVal (o := 0x11) ho hr (fun _ _ => rfl) h
  case h_9 ho => exact fields_of_formIdxBool (o := 0x12) ho hr (fun _ _ => rfl) h
  case h_10 ho => exact fields_of_formIdxVal (o := 0x13) ho hr (fun _ _ => rfl) h
  case h_11 ho => exact fields_of_formIdx (o := 0x18) ho hr (fun _ => rfl) h
  case h_12 ho => exact fields_of_formIdx (o := 0x19) ho hr (fun _ => rfl) h
  case h_13 ho => exact fields_of_formIdx (o := 0x1A) ho hr (fun _ => rfl) h
  case h_14 ho => exact fields_of_formIdx (o := 0x1B) ho hr (fun _ => rfl) h
  case h_15 ho => exact fields_of_formIdxCode (o := 0x20) ho hr (fun _ _ => rfl) h
  case h_16 ho => exact fields_of_formNone (o := 0x28) ho hr rfl h
  case h_17 ho => exact fields_of_formValVal (o := 0x30) ho hr (fun _ _ => rfl) h
  case h_18 ho => exact fields_of_formVal (o := 0x31) ho hr (fun _ => rfl) h
  case h_19 ho => exact fields_of_formVal (o := 0x32) ho hr (fun _ => rfl) h
  case h_20 ho => exact fields_of_formVal (o := 0x33) ho hr (fun _ => rfl) h
  case h_21 ho => exact fields_of_formVal (o := 0x34) ho hr (fun _ => rfl) h
  case h_22 ho => exact fields_of_formVal (o := 0x35) ho hr (fun _ => rfl) h
  case h_23 ho => exact fields_of_formVal (o := 0x36) ho hr (fun _ => rfl) h
  case h_24 ho => exact fields_of_formIdxCode (o := 0x37) ho hr (fun _ _ => rfl) h
  case h_25 ho => exact fields_of_formIdx (o := 0x38) ho hr (fun _ => rfl) h
  case h_26 ho => exact fields_of_formNone (o := 0x39) ho hr rfl h
  case h_27 => cases h

/-- The fields of an accepted word are those of the command the decoder gives (R71, R73, R76). -/
theorem fields_of_decode {w : CmdWord} {i : Instr} (h : decode w = .ok i) : i.fields = Command.ofWord w := by
  obtain ⟨hr, hs⟩ := ite_error_eq_ok.mp h
  exact Command.fields_of_select hr hs

end Sys2Proof

/-! The host's command list and the phase over one step, and the output cells read back. -/

namespace Sys2Proof.Machine

/-! ### The command a step takes -/

/-- The state a command runs in differs in the command taken and the draws presented (assumptions 3, 4). -/
theorem State.issued_eq (s : State) :
    s.issued =
      { s with commands := s.commands.tail, draws := s.nextDraws, inputs := s.inputs.tail, tick := s.tick + 1 } := rfl

/-- Settles O6: the draws presented are the script's first record, or the free one where there is no script. -/
theorem stepRunsTheDecodedCommand : Obligations.StepRunsTheDecodedCommand := by
  intro s w ws i hf hc hd
  refine ⟨fun d ds hin => ?_, fun hin => ?_⟩
  · rw [step_of_ok hf hc hd, s.issued_eq, s.nextDraws_script hin, hc, hin]
    rfl
  · rw [step_of_ok hf hc hd, s.issued_eq, s.nextDraws_free hin, hc, hin]
    rfl

/-- No command touches the host's list. -/
theorem Effect.commands_eq {s t : State} {i : Instr} (h : Effect s i t) : t.commands = s.commands := by
  cases h <;> simp

/-- Settles O16: a waiting block has no command to take; any other step has taken the first before it acts on it. -/
theorem commandsAreTakenInOrder : Obligations.CommandsAreTakenInOrder := by
  intro s t h
  obtain ⟨-, ⟨hc, rfl⟩ | ⟨w, ws, e, -, -, rfl⟩ | ⟨w, ws, i, -, -, hi⟩⟩ := step_cases h
  · simp [hc]
  · rfl
  · exact (exec_effect hi).commands_eq

/-! ### The phase -/

theorem Raises.ne_update {s : State} {i : Instr} {r : Fault} (h : Raises s i r) : i ≠ .update := by
  rintro rfl
  cases h

theorem ne_update_of_returnsValue {i : Instr} (h : returnsValue i = true) : i ≠ .update := by
  rintro rfl
  cases h

/-- UPDATE advances the phase by one and every other command keeps it (R100). -/
theorem Effect.phase_eq {s t : State} {i : Instr} (h : Effect s i t) :
    t.phase = if i = .update then s.phase + 1 else s.phase := by
  cases h with
  | returns v hi => simp [ne_update_of_returnsValue hi]
  | raises hr => simp [hr.ne_update]
  | _ => simp

/-- The word of UPDATE is the only one that decodes to it. -/
theorem eq_updateWord_iff {w : CmdWord} {i : Instr} (hd : decode w = .ok i) : w = updateWord ↔ i = .update := by
  constructor
  · rintro rfl
    exact Except.ok.inj (hd.symm.trans decode_updateWord)
  · rintro rfl
    rw [← Command.toWord_ofWord w, ← fields_of_decode hd]
    rfl

/-- Settles O23: waiting and a rejected word keep the phase, and a command advances it exactly when its word is
UPDATE's. -/
theorem phaseAdvancesOnlyWithUpdate : Obligations.PhaseAdvancesOnlyWithUpdate := by
  intro s t h
  obtain ⟨-, ⟨hc, rfl⟩ | ⟨w, ws, e, hc, hd, rfl⟩ | ⟨w, ws, i, hc, hd, hi⟩⟩ := step_cases h
  · simp [hc]
  · have hw : w ≠ updateWord := by
      rintro rfl
      cases hd.symm.trans decode_updateWord
    simp [hc, hw]
  · simp [hc, eq_updateWord_iff hd, (exec_effect hi).phase_eq]

/-! ### The read-backs of written output cells -/

/-- The read-back of a written audio output returns its cell (R197). -/
theorem exec_rdAudioOut_of_some {s : State} {n : Fin 2} {v : U16} (h : s.outAudio[n] = some v) :
    exec (.rdAudioOut n) s = .next (s.returns v) := by
  simp only [exec, execRdAudioOut, h, State.readBack_some]

/-- The read-back of a written CV output returns its cell (R198). -/
theorem exec_rdCvOut_of_some {s : State} {n : Fin 2} {v : U16} (h : s.outCv[n] = some v) :
    exec (.rdCvOut n) s = .next (s.returns v) := by
  simp only [exec, execRdCvOut, h, State.readBack_some]

/-- The read-back of a written LED returns its cell (R199). -/
theorem exec_rdLed_of_some {s : State} {k : Fin 6} {x : U16} (h : s.outLed[k] = some x) :
    exec (.rdLed k) s = .next (s.returns x) := by
  simp only [exec, execRdLed, h, State.readBack_some]

/-- While the block owns the pulse lines a write records the value and drives the line (R172). -/
theorem exec_wrPulseOut_owned {s : State} (h : s.pulsesRetired = false) (n : Fin 2) (b : Bool) :
    exec (.wrPulseOut n b) s =
      .next ((s.setOutPulse n b).setPulseLevel n (.driven (levelOfLogical b))).returnsNothing := by
  simp [exec, execWrPulseOut, h]

/-- While the block owns the pulse lines the read-back returns the cell (R173). -/
theorem exec_rdPulseOut_owned {s : State} (h : s.pulsesRetired = false) (n : Fin 2) :
    exec (.rdPulseOut n) s = .next (s.returns (resultOfBool s.outPulse[n])) := by
  simp [exec, execRdPulseOut, h]

/-- Settles O52: each write sets its own cell before anything else it does, and no transfer or port write touches the
cell (R58, R154). -/
theorem writtenValueIsReadBack : Obligations.WrittenValueIsReadBack := by
  refine fun s n k v b => ⟨⟨_, rfl, exec_rdAudioOut_of_some ?_⟩, ⟨_, rfl, exec_rdCvOut_of_some ?_⟩,
    ⟨_, rfl, exec_rdLed_of_some ?_⟩, fun hr => ⟨_, exec_wrPulseOut_owned hr n b, ?_⟩⟩
  · simp
  · simp
  · simp
  · rw [exec_rdPulseOut_owned (by simpa using hr)]
    simp [resultOfBool, State.returns]

end Sys2Proof.Machine

/-! The opcode table's numbering of a command word, and the worked encodings. -/

namespace Sys2Proof

/-- The opcode table numbers the bits of a command word as the word itself does (R71). -/
theorem decodeTableWord_toNat (w : CmdWord) : decodeTableWord 48 w.toNat = (decode w).toOption := by
  have hw : tableWord 48 w.toNat = w.toNat := Nat.mod_eq_of_lt w.isLt
  simp [decodeTableWord, hw, w.isLt]

/-- Settles O4: the six words are decoded as they stand, and the table's numbering of WR_LED's word is the word's own. -/
theorem workedEncodingsDecode : Obligations.WorkedEncodingsDecode := by
  have hled : decode 0x1350FFFF0000 = .ok (.wrLed 5 65535) := rfl
  refine ⟨rfl, rfl, rfl, rfl, rfl, hled, ?_⟩
  calc decodeTableWord 48 0x1350FFFF0000
      _ = (decode 0x1350FFFF0000).toOption := decodeTableWord_toNat 0x1350FFFF0000
      _ = some (.wrLed 5 65535) := by rw [hled]; rfl

end Sys2Proof

/-! The words of the commands that take one 16-bit value: each decodes to its command with that value. -/

namespace Sys2Proof

/-- A composed word with RSV 0 decodes to the row its OPC selects (R73). -/
theorem decode_toWord {c : Command} (h : c.rsv = 0) : decode c.toWord = c.select := by
  rw [decode, Command.ofWord_toWord]
  exact if_pos h

/-- Where the OPC selects a row of the form with a value alone, the word with that value decodes to the row's command. -/
theorem decode_toWord_of_formVal {o : BitVec 8} {v : U16} {f : U16 → Instr}
    (h : Command.select ⟨o, 0, 0, v, 0⟩ = Command.formVal ⟨o, 0, 0, v, 0⟩ f) :
    decode (Command.toWord ⟨o, 0, 0, v, 0⟩) = .ok (f v) := by
  rw [decode_toWord rfl, h, Command.formVal, Command.noIndex_zero rfl, Command.noB_zero rfl]

end Sys2Proof

/-! ValueScaler and GammaCorrector: each mapping as a number, then the commands and the writes that use it. -/

namespace Sys2Proof.Machine

/-! ### The DAC codes -/

/-- The code of a value as a number; the narrowing to 12 bits loses nothing (R120). -/
theorem dacScale_toNat (v : U16) : (dacScale v).toNat = 4095 - v.toNat / 16 := by
  simp only [dacScale, BitVec.toNat_ofNat]
  omega

/-- Two values have the same code exactly when they are in the same block of 16 (R121). -/
theorem dacScale_eq_iff (v v' : U16) : dacScale v = dacScale v' ↔ v.toNat / 16 = v'.toNat / 16 := by
  rw [← BitVec.toNat_inj, dacScale_toNat, dacScale_toNat]
  omega

/-- The first value of the block of code `x`. -/
def blockStart (x : U12) : U16 := BitVec.ofNat 16 ((4095 - x.toNat) * 16)

theorem blockStart_block (x : U12) : (blockStart x).toNat / 16 = 4095 - x.toNat := by
  simp only [blockStart, BitVec.toNat_ofNat]
  omega

/-- Every code is the code of the first value of its block (R121). -/
theorem dacScale_blockStart (x : U12) : dacScale (blockStart x) = x := by
  apply BitVec.eq_of_toNat_eq
  rw [dacScale_toNat, blockStart_block]
  omega

/-- Settles O29: a code determines its block, and each block has a first value. -/
theorem dacScaleIsABijectionOfBlocks : Obligations.DacScaleIsABijectionOfBlocks :=
  ⟨dacScale_eq_iff, fun x => ⟨blockStart x, dacScale_blockStart x, blockStart_block x⟩⟩

/-- Settles O28: the result port holds the code zero-extended, and a larger value has no smaller block. -/
theorem dacScaleCommandReturnsTheCode : Obligations.DacScaleCommandReturnsTheCode := by
  refine ⟨fun s v => ⟨decode_toWord_of_formVal rfl, _, rfl, ?_⟩, dacScale_toNat, fun v v' hv => ?_⟩
  · rw [resultOfCode_toNat, dacScale_toNat]
    omega
  · have hblock : v.toNat / 16 ≤ v'.toNat / 16 := Nat.div_le_div_right hv
    rw [dacScale_toNat, dacScale_toNat]
    omega

/-! ### The polarity inversion -/

/-- Inverting twice gives the value back (R123, R125). -/
theorem invert16_involutive : Function.Involutive invert16 := by
  intro v
  apply BitVec.eq_of_toNat_eq
  rw [invert16_toNat, invert16_toNat]
  omega

/-- The duty of a value is its inverse: the clamp changes nothing (R122). -/
theorem pwmScale_eq_invert16 (v : U16) : pwmScale v = invert16 v :=
  BitVec.eq_of_toNat_eq ((pwmScale_toNat v).trans (invert16_toNat v).symm)

/-- Two values with the same duty are the same (R122). -/
theorem pwmScale_injective : Function.Injective pwmScale := by
  rw [funext pwmScale_eq_invert16]
  exact invert16_involutive.injective

/-- Decoding the duty of a value gives the value back (R124). -/
theorem pwmDecode_pwmScale (v : U16) : pwmDecode (pwmScale v) = v := by
  rw [pwmDecode, pwmScale_eq_invert16, invert16_involutive]

/-- Settles O30: a 16-bit value is within the clamp's range, and the inversion is injective. -/
theorem pwmScaleCommandReturnsTheDuty : Obligations.PwmScaleCommandReturnsTheDuty := by
  refine ⟨fun s v => ⟨decode_toWord_of_formVal rfl, _, rfl, rfl, ?_, pwmScale_toNat v⟩, fun _ _ h => pwmScale_injective h⟩
  have hclamp : min (max v.toNat 0) 65535 = v.toNat := clamp_of_le (by omega)
  rw [hclamp, pwmScale_toNat]

/-- Settles O31: the second command answers with the decoded duty, which is the value. -/
theorem pwmRoundTripIsExact : Obligations.PwmRoundTripIsExact := by
  refine fun s v => ⟨⟨pwmDecode v, rfl, invert16_toNat v⟩, pwmScale v, rfl, ?_⟩
  simp only [exec, execFPwmDecode, pwmDecode_pwmScale, State.returns]

/-- Settles O32: the command is the polarity inversion, an involution. -/
theorem inInvertCommandReturnsTheInverse : Obligations.InInvertCommandReturnsTheInverse :=
  fun _ r => ⟨decode_toWord_of_formVal rfl, _, rfl, rfl, invert16_toNat r, invert16_involutive r⟩

/-- Settles O47: the draw of the input named by the command goes through the inversion alone (D8). -/
theorem audioInReturnsTheInvertedSample : Obligations.AudioInReturnsTheInvertedSample :=
  fun s n => ⟨inInvert s.draws.adcAudio[n], rfl, invert16_toNat _⟩

/-! ### The rectifier -/

/-- The rectified value as a number; doubling stays within 16 bits (R126). -/
theorem rect_toNat (r : U16) : (rect r).toNat = if 32768 < r.toNat then (r.toNat - 32768) * 2 else 0 := by
  simp only [rect, BitVec.toNat_ofNat]
  split <;> omega

/-- Settles O33: both sides of the center, and the bound and evenness on each. -/
theorem rectCommandReturnsTheRectifiedValue : Obligations.RectCommandReturnsTheRectifiedValue := by
  refine fun s r => ⟨rect r, rfl, ?_⟩
  rw [rect_toNat]
  split <;> omega

/-! ### The gamma curve -/

/-- The curve as a number: neither the clamp nor the narrowing changes it (R128). -/
theorem gamma_toNat (x : U16) : (gamma x).toNat = x.toNat ^ 2 / 65535 := by
  rw [gamma, clamp_of_le (gamma_le x), BitVec.toNat_ofNat, Nat.mod_eq_of_lt (Nat.lt_succ_of_le (gamma_le x))]

/-- The curve never decreases (R129). -/
theorem gamma_mono {x y : U16} (h : x.toNat ≤ y.toNat) : (gamma x).toNat ≤ (gamma y).toNat := by
  rw [gamma_toNat, gamma_toNat]
  exact Nat.div_le_div_right (Nat.pow_le_pow_left h 2)

/-- Settles O35: squaring and the division by 65535 both keep the order; the ends are two closed values. -/
theorem gammaIsMonotonicAndFixesTheEnds : Obligations.GammaIsMonotonicAndFixesTheEnds :=
  ⟨by decide, by decide, fun _ _ => gamma_mono⟩

/-- Settles O34: the square of a value below 2¹⁶ is below 2³², and the quotient is within the clamp's range. -/
theorem gammaCommandReturnsTheCurve : Obligations.GammaCommandReturnsTheCurve := by
  refine fun s x => ⟨decode_toWord_of_formVal rfl, ?_, gamma x, rfl, rfl, ?_, gamma_toNat x⟩
  · calc x.toNat ^ 2 < (2 ^ 16) ^ 2 := Nat.pow_lt_pow_left x.isLt (by decide)
      _ = 2 ^ 32 := by norm_num
  · have hclamp : min (max (x.toNat ^ 2 / 65535) 0) 65535 = x.toNat ^ 2 / 65535 := clamp_of_le (gamma_le x)
    rw [hclamp, gamma_toNat]

/-- The LED duty as a number: gamma, or 65535 minus it where LED_INVERT says so (R196, D16). -/
theorem ledDuty_toNat (c : Config) (x : U16) :
    (ledDuty c x).toNat = if c.ledInvert then 65535 - x.toNat ^ 2 / 65535 else x.toNat ^ 2 / 65535 := by
  rw [ledDuty]
  split
  · rw [invert16_toNat, gamma_toNat]
  · exact gamma_toNat x

/-- Settles O50: the command writes the brightness and its duty. -/
theorem ledSetsTheGammaDuty : Obligations.LedSetsTheGammaDuty :=
  fun s _ x => ⟨ledDuty s.cfg x, ledDuty_toNat s.cfg x, rfl⟩

end Sys2Proof.Machine

/-! DacDriver: when a lock attempt succeeds, what a transfer then does, the frame as bits, and who uses the bus. -/

namespace Sys2Proof

/-! ### The words of F_DAC_FRAME -/

/-- What the form with an index and a DAC code accepts, and the operands it gives (R72, R73). -/
theorem Command.formIdxCode_eq_ok {c : Command} {i : Instr} {n : Nat} {f : Fin n → U12 → Instr} :
    c.formIdxCode n f = .ok i ↔
      ∃ hi : c.idx.toNat < n, c.b = 0 ∧ c.a.toNat < 4096 ∧ f ⟨c.idx.toNat, hi⟩ (BitVec.ofNat 12 c.a.toNat) = i := by
  by_cases hi : c.idx.toNat < n
  · simp [Command.formIdxCode, Command.index_of_lt hi, Command.noB_eq_ok, Command.code, ite_error_eq_ok, hi]
  · simp [Command.formIdxCode, Command.index_of_not_lt hi, hi]

/-- A composed word is accepted when its RSV is 0 and the row of its OPC accepts its operands (R73, R76). -/
theorem decode_toWord_eq_ok {c : Command} {i : Instr} : decode c.toWord = .ok i ↔ c.rsv = 0 ∧ c.select = .ok i := by
  rw [decode, Command.ofWord_toWord]
  exact ite_error_eq_ok

theorem Command.select_fDacFrame {c : Command} (h : c.opc = 0x37) : c.select = c.formIdxCode 2 .fDacFrame := by
  rw [Command.select, h]
  rfl

/-- The accepted words of OPC 0x37 and the command each gives (R151). -/
theorem decode_fDacFrame_eq_ok {c : Command} {i : Instr} (h : c.opc = 0x37) :
    decode c.toWord = .ok i ↔
      c.rsv = 0 ∧ ∃ hi : c.idx.toNat < 2, c.b = 0 ∧ c.a.toNat < 4096 ∧
        .fDacFrame ⟨c.idx.toNat, hi⟩ (BitVec.ofNat 12 c.a.toNat) = i := by
  rw [decode_toWord_eq_ok, Command.select_fDacFrame h, Command.formIdxCode_eq_ok]

end Sys2Proof

namespace Sys2Proof.Machine

/-! ### The frame -/

theorem dacFrame_eq (c : Config) (ch : Fin 2) (code : U12) : dacFrame c ch code = c.dacCfg[ch] ||| code.zeroExtend 16 := by
  rw [dacFrame, BitVec.ofNat_toNat]

/-- Every admitted header leaves the code's bits clear (R155). -/
theorem header_low_of_wellFormed {c : Config} (h : c.WellFormed) (ch : Fin 2) : c.dacCfg[ch].toNat % 4096 = 0 := by
  obtain ⟨-, -, -, h₀, h₁, -⟩ := h
  have hzero : c.dacCfg[0].toNat % 4096 = 0 := by rw [h₀]; rfl
  fin_cases ch
  · exact hzero
  · exact h₁

/-- The frame under an admitted header is a sum: no bit is in both the header and the code (R151). -/
theorem dacFrame_toNat_of_wellFormed {c : Config} (h : c.WellFormed) (ch : Fin 2) (code : U12) :
    (dacFrame c ch code).toNat = c.dacCfg[ch].toNat + code.toNat := by
  have hheader : c.dacCfg[ch].toNat = 2 ^ 12 * (c.dacCfg[ch].toNat / 4096) := by
    have hlow := header_low_of_wellFormed h ch
    omega
  have hcode : (code.zeroExtend 16).toNat = code.toNat := by
    simp only [BitVec.truncate_eq_setWidth, BitVec.toNat_setWidth]
    omega
  rw [dacFrame_eq, BitVec.toNat_or, hcode, hheader, ← Nat.two_pow_add_eq_or_of_lt code.isLt]

/-- Settles O39: the sum splits at bit 12, and the decoder's checks on OPC 0x37 are the four ranges. -/
theorem frameIsHeaderOrCode : Obligations.FrameIsHeaderOrCode := by
  refine ⟨fun s ch code => ⟨dacFrame s.cfg ch code, rfl, dacFrame_eq _ _ _, fun hc => ?_⟩, fun c hc => ⟨⟨?_, ?_⟩, ?_⟩⟩
  · have hlow := header_low_of_wellFormed hc ch
    rw [dacFrame_toNat_of_wellFormed hc]
    omega
  · rintro ⟨i, hd⟩
    obtain ⟨hrsv, hidx, hb, ha, -⟩ := (decode_fDacFrame_eq_ok hc).mp hd
    exact ⟨hidx, hrsv, ha, hb⟩
  · rintro ⟨hidx, hrsv, ha, hb⟩
    exact ⟨_, (decode_fDacFrame_eq_ok hc).mpr ⟨hrsv, hidx, hb, ha, rfl⟩⟩
  · intro i hd
    obtain ⟨-, hidx, -, ha, hi⟩ := (decode_fDacFrame_eq_ok hc).mp hd
    exact ⟨⟨_, hidx⟩, _, rfl, (BitVec.toNat_ofNat _ 12).trans (Nat.mod_eq_of_lt ha), hi.symm⟩

/-! ### The lock attempt -/

/-- On a free bus the attempt succeeds (R152, D14). -/
theorem State.tryAcquire_of_busFree {s : State} (h : s.BusFree) : s.tryAcquire = true := by
  obtain ⟨hlock, hacq⟩ := h
  cases hm : s.cfg.dacLockModel with
  | draw => exact (s.tryAcquire_draw hlock hm).trans (hacq hm)
  | always => exact s.tryAcquire_always hlock hm

/-- On a contended bus the attempt fails (R152, D14). -/
theorem State.tryAcquire_of_busContended {s : State} (h : s.BusContended) : s.tryAcquire = false := by
  obtain hlock | ⟨hm, hacq⟩ := h
  · exact s.tryAcquire_held hlock
  · cases hlock : s.dacLock with
    | true => exact s.tryAcquire_held hlock
    | false => exact (s.tryAcquire_draw hlock hm).trans hacq

/-! ### The transfer -/

/-- On a free bus a transfer sends the frame and gives the lock back as it found it (R153). -/
theorem State.dacTransfer_of_busFree {s : State} (h : s.BusFree) (ch : Fin 2) (code : U12) :
    s.dacTransfer ch code =
      { s with
        dacCsN := true
        spiTrace := s.spiTrace ++ [frameHigh (dacFrame s.cfg ch code), frameLow (dacFrame s.cfg ch code)]
        dacCode := s.dacCode.set ch (some code) } := by
  have hlock : s.dacLock = false := h.1
  rw [s.dacTransfer_acquired ch code (State.tryAcquire_of_busFree h), s.transmit_eq, ← hlock]

/-- On a contended bus a transfer only reports the skip (R154). -/
theorem State.dacTransfer_of_busContended {s : State} (h : s.BusContended) (ch : Fin 2) (code : U12) :
    s.dacTransfer ch code = s.log (.dacSkip ch code) :=
  s.dacTransfer_skipped ch code (State.tryAcquire_of_busContended h)

/-- Settles O36: the command is the transfer with no result. -/
theorem dacWriteSendsTheFrame : Obligations.DacWriteSendsTheFrame := by
  intro s ch code h
  simp only [← dacFrame_eq]
  refine ⟨_, _, frameHigh_toNat _, frameLow_toNat _, ?_⟩
  rw [exec, execDacWrite, State.dacTransfer_of_busFree h]
  rfl

/-- Settles O37: recording the value leaves the bus free, and the transfer takes the value's code. -/
theorem audioOutSendsTheScaledCode : Obligations.AudioOutSendsTheScaledCode := by
  intro s n v h
  have hfree : (s.setOutAudio n v).BusFree := h
  simp only [← dacFrame_eq]
  refine ⟨dacScale v, _, _, dacScale_toNat v, frameHigh_toNat _, frameLow_toNat _, ?_⟩
  rw [exec, execWrAudioOut, State.dacTransfer_of_busFree hfree]
  rfl

/-- Settles O38: both commands skip the transfer; recording the value leaves the bus contended. -/
theorem contendedTransferIsSkippedAndLogged : Obligations.ContendedTransferIsSkippedAndLogged := by
  intro s ch code v h
  have haudio : (s.setOutAudio ch v).BusContended := h
  refine ⟨?_, dacScale v, dacScale_toNat v, ?_⟩
  · rw [exec, execDacWrite, State.dacTransfer_of_busContended h]
    rfl
  · rw [exec, execWrAudioOut, State.dacTransfer_of_busContended haudio]
    rfl

/-! ### The users of the bus -/

/-- Settles O40: the only effects with a transfer are those of the two commands left out. -/
theorem onlyTheDacDriverUsesTheBus : Obligations.OnlyTheDacDriverUsesTheBus := by
  intro i s t hdac haudio h
  cases exec_effect h with
  | audio n v => exact absurd rfl (haudio n v)
  | dac ch code => exact absurd rfl (hdac ch code)
  | _ => simp

/-- A transfer sends two bytes or reports one event (R153, R154). -/
theorem State.dacTransfer_traces (s : State) (ch : Fin 2) (code : U12) :
    (∃ hi lo, (s.dacTransfer ch code).spiTrace = s.spiTrace ++ [hi, lo] ∧
        (s.dacTransfer ch code).eventTrace = s.eventTrace) ∨
      ∃ e, (s.dacTransfer ch code).spiTrace = s.spiTrace ∧
        (s.dacTransfer ch code).eventTrace = s.eventTrace ++ [e] := by
  obtain ⟨-, h⟩ | ⟨-, h⟩ := s.dacTransfer_cases ch code <;> rw [h]
  · exact .inl ⟨_, _, rfl, rfl⟩
  · exact .inr ⟨_, rfl, rfl⟩

/-- The traces after one command: as before, or grown by its transfer. -/
theorem Effect.traces {s t : State} {i : Instr} (h : Effect s i t) :
    (t.spiTrace = s.spiTrace ∧ t.eventTrace = s.eventTrace) ∨
      (∃ hi lo, t.spiTrace = s.spiTrace ++ [hi, lo] ∧ t.eventTrace = s.eventTrace) ∨
      ∃ e, t.spiTrace = s.spiTrace ∧ t.eventTrace = s.eventTrace ++ [e] := by
  cases h with
  | audio n v => exact .inr ((s.setOutAudio n v).dacTransfer_traces _ _)
  | dac ch code => exact .inr (s.dacTransfer_traces ch code)
  | _ => exact .inl (by simp)

/-- Settles O41: neither waiting nor a rejected word nor taking a command writes a trace. -/
theorem tracesOnlyGrow : Obligations.TracesOnlyGrow := by
  intro s t h
  obtain rfl | ⟨w, rfl⟩ | ⟨i, hi⟩ := step_effect h
  · exact .inl ⟨rfl, rfl⟩
  · exact .inl ⟨rfl, rfl⟩
  · exact hi.traces

end Sys2Proof.Machine

/-! DigitalIOAdapter: the pins are active-low, the logical values active-high. -/

namespace Sys2Proof.Machine

/-- The result port holds 0 for a high line and 1 for a low one (R170, R171). -/
theorem resultOfBool_logicalOfLevel (level : Bool) :
    resultOfBool (logicalOfLevel level) = if level then 0 else 1 := by
  cases level <;> rfl

/-- RD_PULSE_IN returns the logical value of the drawn level, retired outputs or not (R171). -/
theorem exec_rdPulseIn (n : Fin 2) (s : State) :
    exec (.rdPulseIn n) s = .next (s.returns (resultOfBool (logicalOfLevel s.draws.pulseInLevel[n]))) := rfl

/-- The line a write has driven holds the level of the logical value (R170). -/
theorem State.getElem_setPulseLevel_self (s : State) (n : Fin 2) (l : PinLevel) :
    (s.setPulseLevel n l).pulseOutLevel[n] = l := by simp

/-- Settles O43: the value read is the line's level negated, and an owned write drives the negated value, which a driven
pin shows to every observer. -/
theorem pulseLinesAreActiveLow : Obligations.PulseLinesAreActiveLow := by
  refine fun s n b => ⟨?_, fun hr => ⟨_, exec_wrPulseOut_owned hr n b, rfl, ?_⟩⟩
  · rw [exec_rdPulseIn, resultOfBool_logicalOfLevel]
    rfl
  · exact State.observePulsePin_driven _ ((s.setOutPulse n b).getElem_setPulseLevel_self n _)

end Sys2Proof.Machine

/-! ComputerFacade: the reads of the scanner's cells, the CV write, and which commands write the scanner and OutputState. -/

namespace Sys2Proof.Machine

/-! ### The scanner's cells -/

/-- Settles O48: each read returns its cell; a CV slot is inverted, and the phase is zero-extended. -/
theorem scannerReadsReturnTheirCell : Obligations.ScannerReadsReturnTheirCell :=
  fun s n _ _ => ⟨⟨inInvert s.chan[cvSlot n], rfl, invert16_toNat _⟩, rfl, rfl, rfl, resultOfPhase s.phase, rfl,
    resultOfPhase_toNat s.phase⟩

/-- Every command but UPDATE keeps ChannelTable, the phase and the select lines (R203). -/
theorem Effect.scanner_eq {s t : State} {i : Instr} (h : Effect s i t) (hi : i ≠ .update) :
    t.chan = s.chan ∧ t.phase = s.phase ∧ t.muxSel = s.muxSel := by
  cases h with
  | scan => exact absurd rfl hi
  | _ => simp

/-- Settles O27: the scan is the only effect that writes the scanner, and it is UPDATE's. -/
theorem onlyUpdateWritesTheScanner : Obligations.OnlyUpdateWritesTheScanner :=
  fun _ _ _ hi h => (exec_effect h).scanner_eq hi

/-! ### OutputState -/

/-- Settles O49: the command writes the value and its duty. -/
theorem cvOutSetsTheInvertedDuty : Obligations.CvOutSetsTheInvertedDuty :=
  fun _ _ v => ⟨pwmScale v, pwmScale_toNat v, rfl⟩

/-- OutputState (R28), with the retirement that decides whether a pulse write takes effect (R37). -/
structure Outputs where
  audio : Vector (Option U16) 2
  cv : Vector (Option U16) 2
  pulse : Vector Bool 2
  led : Vector (Option U16) 6
  retired : Bool

/-- The OutputState of a block. -/
def State.outputs (s : State) : Outputs := ⟨s.outAudio, s.outCv, s.outPulse, s.outLed, s.pulsesRetired⟩

theorem outputsAgree_iff {s s' : State} : OutputsAgree s s' ↔ s.outputs = s'.outputs := by
  simp only [State.outputs, Outputs.mk.injEq]
  exact ⟨fun ⟨ha, hc, hp, hl, hr⟩ => ⟨ha, hc, hp, hl, hr⟩, fun ⟨ha, hc, hp, hl, hr⟩ => ⟨ha, hc, hp, hl, hr⟩⟩

/-- What a command makes of OutputState, from OutputState alone: the four writes set their cell, a retired pulse output's
write none (R204). -/
def outputsAfter : Instr → Outputs → Outputs
  | .wrAudioOut n v, o => { o with audio := o.audio.set n (some v) }
  | .wrCvOut n v, o => { o with cv := o.cv.set n (some v) }
  | .wrPulseOut n b, o => if o.retired then o else { o with pulse := o.pulse.set n b }
  | .wrLed k x, o => { o with led := o.led.set k (some x) }
  | .convertPulses, o => { o with retired := true }
  | _, o => o

theorem outputsAfter_of_returnsValue {i : Instr} (h : returnsValue i = true) (o : Outputs) : outputsAfter i o = o := by
  cases i <;> cases h <;> rfl

/-- A faulting command writes no output: of the writes only a retired pulse output's can fault (R230, R231). -/
theorem Raises.outputsAfter_eq {s : State} {i : Instr} {r : Fault} (h : Raises s i r) :
    outputsAfter i s.outputs = s.outputs := by
  cases h with
  | wrPulse n b hr => exact if_pos hr
  | _ => rfl

theorem State.dacTransfer_outputs (s : State) (ch : Fin 2) (code : U12) : (s.dacTransfer ch code).outputs = s.outputs := by
  simp [State.outputs]

/-- Ports, draws and the rest of the state never reach OutputState (R204). -/
theorem Effect.outputs_eq {s t : State} {i : Instr} (h : Effect s i t) : t.outputs = outputsAfter i s.outputs := by
  cases h with
  | returns v hi => exact (outputsAfter_of_returnsValue hi _).symm
  | raises hr => exact hr.outputsAfter_eq.symm
  | audio n v => exact (s.setOutAudio n v).dacTransfer_outputs _ _
  | dac ch code => exact s.dacTransfer_outputs ch code
  | pulse n b hr => exact (if_neg (Bool.eq_false_iff.mp hr)).symm
  | _ => rfl

/-- A write to one cell keeps every other. -/
theorem getElem_set_of_ne {α : Type} {k : Nat} (cells : Vector α k) {m n : Fin k} (a : α) (h : m ≠ n) :
    (cells.set m a)[n] = cells[n] :=
  Vector.getElem_set_ne m.isLt n.isLt (Fin.val_ne_of_ne h)

section Frame
variable {s t : State} {i : Instr} (h : Effect s i t)
include h

theorem Effect.outAudio_eq (n : Fin 2) (hi : ∀ v, i ≠ .wrAudioOut n v) : t.outAudio[n] = s.outAudio[n] := by
  cases h with
  | audio m v =>
    have hm : m ≠ n := by rintro rfl; exact hi v rfl
    simpa using getElem_set_of_ne s.outAudio (some v) hm
  | _ => simp

theorem Effect.outCv_eq (n : Fin 2) (hi : ∀ v, i ≠ .wrCvOut n v) : t.outCv[n] = s.outCv[n] := by
  cases h with
  | cv m v =>
    have hm : m ≠ n := by rintro rfl; exact hi v rfl
    exact getElem_set_of_ne s.outCv (some v) hm
  | _ => simp

theorem Effect.outPulse_eq (n : Fin 2) (hi : ∀ b, i ≠ .wrPulseOut n b) : t.outPulse[n] = s.outPulse[n] := by
  cases h with
  | pulse m b _ =>
    have hm : m ≠ n := by rintro rfl; exact hi b rfl
    exact getElem_set_of_ne s.outPulse b hm
  | _ => simp

theorem Effect.outLed_eq (k : Fin 6) (hi : ∀ x, i ≠ .wrLed k x) : t.outLed[k] = s.outLed[k] := by
  cases h with
  | led m x =>
    have hm : m ≠ k := by rintro rfl; exact hi x rfl
    exact getElem_set_of_ne s.outLed (some x) hm
  | _ => simp

end Frame

/-- Settles O53: every effect sets at most the cell its command names, and OutputState after a command is a function of
the command and of OutputState before it. -/
theorem outputStateIsWrittenOnlyByItsWriters : Obligations.OutputStateIsWrittenOnlyByItsWriters := by
  refine ⟨fun i s t h => ?_, fun i s s' t t' hagree h h' => ?_⟩
  · have he : Effect s i t := exec_effect h
    exact ⟨he.outAudio_eq, he.outCv_eq, he.outPulse_eq, he.outLed_eq⟩
  · rw [outputsAgree_iff] at hagree ⊢
    rw [(exec_effect h).outputs_eq, (exec_effect h').outputs_eq, hagree]

end Sys2Proof.Machine

/-! The phase over a run of any commands. -/

namespace Sys2Proof.Machine

/-- Settles O24, by induction on the waiting commands: each step takes the first of them, and advances the phase by one
exactly when that is UPDATE's word. -/
theorem phaseCountsUpdateCommands : Obligations.PhaseCountsUpdateCommands := by
  intro s t
  generalize hws : s.commands = ws
  induction ws generalizing s with
  | nil =>
    intro h
    cases h
    simp
  | cons w ws ih =>
    intro h
    obtain ⟨s', hstep, hrest⟩ := steps_succ_cases h
    have hcommands : s'.commands = ws := by rw [commandsAreTakenInOrder s s' hstep, hws, List.tail_cons]
    have hphase : s'.phase = if w = updateWord then s.phase + 1#2 else s.phase := by
      simpa [hws] using phaseAdvancesOnlyWithUpdate s s' hstep
    rw [ih s' hcommands hrest, hphase]
    by_cases hw : w = updateWord
    · rw [if_pos hw, hw, List.count_cons_self, BitVec.ofNat_add, BitVec.add_assoc, BitVec.add_comm 1#2]
    · rw [if_neg hw, List.count_cons_of_ne hw]

end Sys2Proof.Machine

/-! The encoding both ways: the word of every command decodes to it, the decoder accepts exactly the table's words, and the
assembler writes the same word. -/

namespace Sys2Proof

/-! ### What each operand form makes of encoded fields -/

section EncodedFields
variable (o : BitVec 8)

theorem Command.formNone_encoded (i : Instr) : Command.formNone ⟨o, 0, 0, 0, 0⟩ i = .ok i := rfl

theorem Command.formIdx_encoded {n : Nat} (hn : n ≤ 16) (f : Fin n → Instr) (k : Fin n) :
    Command.formIdx ⟨o, idxField k, 0, 0, 0⟩ n f = .ok (f k) := by
  rw [Command.formIdx, Command.index_idxField hn k rfl, Command.noAB_zero rfl rfl]

theorem Command.formIdxVal_encoded {n : Nat} (hn : n ≤ 16) (f : Fin n → U16 → Instr) (k : Fin n) (v : U16) :
    Command.formIdxVal ⟨o, idxField k, 0, v, 0⟩ n f = .ok (f k v) := by
  rw [Command.formIdxVal, Command.index_idxField hn k rfl, Command.noB_zero rfl]

theorem Command.formIdxBool_encoded {n : Nat} (hn : n ≤ 16) (f : Fin n → Bool → Instr) (k : Fin n) (b : Bool) :
    Command.formIdxBool ⟨o, idxField k, 0, boolField b, 0⟩ n f = .ok (f k b) := by
  rw [Command.formIdxBool, Command.index_idxField hn k rfl, Command.noB_zero rfl, Command.bool_boolField b rfl]

theorem Command.formIdxCode_encoded {n : Nat} (hn : n ≤ 16) (f : Fin n → U12 → Instr) (k : Fin n) (x : U12) :
    Command.formIdxCode ⟨o, idxField k, 0, x.zeroExtend 16, 0⟩ n f = .ok (f k x) := by
  rw [Command.formIdxCode, Command.index_idxField hn k rfl, Command.noB_zero rfl, Command.code_zeroExtend x rfl]

theorem Command.formVal_encoded (f : U16 → Instr) (v : U16) : Command.formVal ⟨o, 0, 0, v, 0⟩ f = .ok (f v) := rfl

theorem Command.formValVal_encoded (f : U16 → U16 → Instr) (v w : U16) :
    Command.formValVal ⟨o, 0, 0, v, w⟩ f = .ok (f v w) := rfl

end EncodedFields

/-! ### Decoding an encoded command -/

/-- The row a command's OPC selects gives the command back from its fields (R76). -/
theorem Instr.select_fields (i : Instr) : i.fields.select = .ok i := by
  cases i with
  | update => exact Command.formNone_encoded _ _
  | rdAudioIn n => exact Command.formIdx_encoded _ (by decide) _ n
  | rdCvIn n => exact Command.formIdx_encoded _ (by decide) _ n
  | rdKnob n => exact Command.formIdx_encoded _ (by decide) _ n
  | rdSwitch => exact Command.formNone_encoded _ _
  | rdPulseIn n => exact Command.formIdx_encoded _ (by decide) _ n
  | wrAudioOut n v => exact Command.formIdxVal_encoded _ (by decide) _ n v
  | wrCvOut n v => exact Command.formIdxVal_encoded _ (by decide) _ n v
  | wrPulseOut n b => exact Command.formIdxBool_encoded _ (by decide) _ n b
  | wrLed k x => exact Command.formIdxVal_encoded _ (by decide) _ k x
  | rdAudioOut n => exact Command.formIdx_encoded _ (by decide) _ n
  | rdCvOut n => exact Command.formIdx_encoded _ (by decide) _ n
  | rdPulseOut n => exact Command.formIdx_encoded _ (by decide) _ n
  | rdLed k => exact Command.formIdx_encoded _ (by decide) _ k
  | dacWrite ch code => exact Command.formIdxCode_encoded _ (by decide) _ ch code
  | convertPulses => exact Command.formNone_encoded _ _
  | fSmooth old raw => exact Command.formValVal_encoded _ _ old raw
  | fDacScale v => exact Command.formVal_encoded _ _ v
  | fPwmScale v => exact Command.formVal_encoded _ _ v
  | fPwmDecode d => exact Command.formVal_encoded _ _ d
  | fInInvert r => exact Command.formVal_encoded _ _ r
  | fRect r => exact Command.formVal_encoded _ _ r
  | fGamma x => exact Command.formVal_encoded _ _ x
  | fDacFrame ch code => exact Command.formIdxCode_encoded _ (by decide) _ ch code
  | rdChan i => exact Command.formIdx_encoded _ (by decide) _ i
  | rdPhase => exact Command.formNone_encoded _ _

/-- The encoder leaves RSV 0 (R80). -/
theorem Instr.fields_rsv (i : Instr) : i.fields.rsv = 0 := by cases i <;> rfl

/-- Settles O1: composing the fields and taking them apart again loses nothing, and each row reads its own fields. -/
theorem decodeInvertsEncode : Obligations.DecodeInvertsEncode :=
  fun i => (decode_toWord i.fields_rsv).trans i.select_fields

/-- Settles O2: the fields of an accepted word are the command's, and a word is its fields. -/
theorem encodeInvertsDecode : Obligations.EncodeInvertsDecode := by
  intro w i h
  rw [encode, fields_of_decode h, Command.toWord_ofWord]

/-! ### The table of ranges -/

/-- The fields of every command are legal (R73, R76). -/
theorem Instr.wellFormed_fields (i : Instr) : i.fields.wellFormed = true := by
  cases i with
  | update => exact Laws.LegalFields.update
  | rdAudioIn n => exact Laws.LegalFields.rdAudioIn n
  | rdCvIn n => exact Laws.LegalFields.rdCvIn n
  | rdKnob n => exact Laws.LegalFields.rdKnob n
  | rdSwitch => exact Laws.LegalFields.rdSwitch
  | rdPulseIn n => exact Laws.LegalFields.rdPulseIn n
  | wrAudioOut n v => exact Laws.LegalFields.wrAudioOut n v
  | wrCvOut n v => exact Laws.LegalFields.wrCvOut n v
  | wrPulseOut n b => exact Laws.LegalFields.wrPulseOut n b
  | wrLed k x => exact Laws.LegalFields.wrLed k x
  | rdAudioOut n => exact Laws.LegalFields.rdAudioOut n
  | rdCvOut n => exact Laws.LegalFields.rdCvOut n
  | rdPulseOut n => exact Laws.LegalFields.rdPulseOut n
  | rdLed k => exact Laws.LegalFields.rdLed k
  | dacWrite ch code => exact Laws.LegalFields.dacWrite ch code
  | convertPulses => exact Laws.LegalFields.convertPulses
  | fSmooth old raw => exact Laws.LegalFields.fSmooth old raw
  | fDacScale v => exact Laws.LegalFields.fDacScale v
  | fPwmScale v => exact Laws.LegalFields.fPwmScale v
  | fPwmDecode d => exact Laws.LegalFields.fPwmDecode d
  | fInInvert r => exact Laws.LegalFields.fInInvert r
  | fRect r => exact Laws.LegalFields.fRect r
  | fGamma x => exact Laws.LegalFields.fGamma x
  | fDacFrame ch code => exact Laws.LegalFields.fDacFrame ch code
  | rdChan i => exact Laws.LegalFields.rdChan i
  | rdPhase => exact Laws.LegalFields.rdPhase

/-- What the table asks of the fields of a word (R73). -/
theorem Command.fits_iff {c : Command} {r : OpcodeRow} :
    c.fits r = true ↔
      c.opc = r.opc ∧ c.rsv = 0 ∧ c.idx.toNat < r.idxCount ∧ c.a.toNat ≤ r.aMax ∧ c.b.toNat ≤ r.bMax := by
  simp [Command.fits, Command.rsvOk, Command.idxOk, Command.aOk, Command.bOk, and_assoc]

theorem Command.wellFormed_iff {c : Command} : c.wellFormed = true ↔ ∃ r ∈ opcodeMap, c.fits r = true := List.any_eq_true

theorem eq_zero_of_toNat_le {n : Nat} {x : BitVec n} (h : x.toNat ≤ 0) : x = 0 :=
  BitVec.eq_of_toNat_eq (by simpa using h)

theorem eq_zero_of_toNat_lt {n : Nat} {x : BitVec n} (h : x.toNat < 1) : x = 0 := eq_zero_of_toNat_le (Nat.le_of_lt_succ h)

/-! Each form accepts what its row admits. -/

section Accepts
variable {o : BitVec 8} {c : Command}

theorem Command.formNone_accepts (i : Instr) (h : c.fits ⟨o, 1, 0, 0⟩ = true) : ∃ j, c.formNone i = .ok j := by
  obtain ⟨-, -, hi, ha, hb⟩ := Command.fits_iff.mp h
  exact ⟨i, Command.noIndex_eq_ok.mpr
    ⟨eq_zero_of_toNat_lt hi, Command.noAB_eq_ok.mpr ⟨eq_zero_of_toNat_le ha, eq_zero_of_toNat_le hb, rfl⟩⟩⟩

theorem Command.formIdx_accepts {n : Nat} (f : Fin n → Instr) (h : c.fits ⟨o, n, 0, 0⟩ = true) :
    ∃ j, c.formIdx n f = .ok j := by
  obtain ⟨-, -, hi, ha, hb⟩ := Command.fits_iff.mp h
  exact ⟨_, (Command.index_of_lt hi _).trans (Command.noAB_zero (eq_zero_of_toNat_le ha) (eq_zero_of_toNat_le hb) _)⟩

theorem Command.formIdxVal_accepts {n aMax : Nat} (f : Fin n → U16 → Instr) (h : c.fits ⟨o, n, aMax, 0⟩ = true) :
    ∃ j, c.formIdxVal n f = .ok j := by
  obtain ⟨-, -, hi, -, hb⟩ := Command.fits_iff.mp h
  exact ⟨_, (Command.index_of_lt hi _).trans (Command.noB_zero (eq_zero_of_toNat_le hb) _)⟩

theorem Command.formIdxBool_accepts {n : Nat} (f : Fin n → Bool → Instr) (h : c.fits ⟨o, n, 1, 0⟩ = true) :
    ∃ j, c.formIdxBool n f = .ok j := by
  obtain ⟨-, -, hi, ha, hb⟩ := Command.fits_iff.mp h
  exact ⟨_, (Command.index_of_lt hi _).trans
    ((Command.noB_zero (eq_zero_of_toNat_le hb) _).trans (if_pos (Nat.lt_succ_of_le ha)))⟩

theorem Command.formIdxCode_accepts {n : Nat} (f : Fin n → U12 → Instr) (h : c.fits ⟨o, n, 4095, 0⟩ = true) :
    ∃ j, c.formIdxCode n f = .ok j := by
  obtain ⟨-, -, hi, ha, hb⟩ := Command.fits_iff.mp h
  exact ⟨_, Command.formIdxCode_eq_ok.mpr ⟨hi, eq_zero_of_toNat_le hb, Nat.lt_succ_of_le ha, rfl⟩⟩

theorem Command.formVal_accepts {aMax : Nat} (f : U16 → Instr) (h : c.fits ⟨o, 1, aMax, 0⟩ = true) :
    ∃ j, c.formVal f = .ok j := by
  obtain ⟨-, -, hi, -, hb⟩ := Command.fits_iff.mp h
  exact ⟨_, (Command.noIndex_zero (eq_zero_of_toNat_lt hi) _).trans (Command.noB_zero (eq_zero_of_toNat_le hb) _)⟩

theorem Command.formValVal_accepts {aMax bMax : Nat} (f : U16 → U16 → Instr) (h : c.fits ⟨o, 1, aMax, bMax⟩ = true) :
    ∃ j, c.formValVal f = .ok j := by
  obtain ⟨-, -, hi, -⟩ := Command.fits_iff.mp h
  exact ⟨_, Command.noIndex_zero (eq_zero_of_toNat_lt hi) _⟩

end Accepts

/-- The row the OPC selects accepts the fields its row of the table admits (R76). -/
theorem Command.select_accepts {c : Command} {r : OpcodeRow} (hr : r ∈ opcodeMap) (h : c.fits r = true) :
    ∃ j, c.select = .ok j := by
  obtain ⟨ho, hrsv, -⟩ := Command.fits_iff.mp h
  obtain ⟨opc, idx, rsv, a, b⟩ := c
  cases ho
  cases hrsv
  simp only [opcodeMap, propertyRows, componentRows, List.cons_append, List.nil_append, List.mem_cons, List.not_mem_nil,
    or_false] at hr
  obtain rfl | rfl | rfl | rfl | rfl | rfl | rfl | rfl | rfl | rfl | rfl | rfl | rfl | rfl | rfl | rfl | rfl | rfl |
    rfl | rfl | rfl | rfl | rfl | rfl | rfl | rfl := hr
  · exact Command.formNone_accepts .update h
  · exact Command.formIdx_accepts .rdAudioIn h
  · exact Command.formIdx_accepts .rdCvIn h
  · exact Command.formIdx_accepts .rdKnob h
  · exact Command.formNone_accepts .rdSwitch h
  · exact Command.formIdx_accepts .rdPulseIn h
  · exact Command.formIdxVal_accepts .wrAudioOut h
  · exact Command.formIdxVal_accepts .wrCvOut h
  · exact Command.formIdxBool_accepts .wrPulseOut h
  · exact Command.formIdxVal_accepts .wrLed h
  · exact Command.formIdx_accepts .rdAudioOut h
  · exact Command.formIdx_accepts .rdCvOut h
  · exact Command.formIdx_accepts .rdPulseOut h
  · exact Command.formIdx_accepts .rdLed h
  · exact Command.formIdxCode_accepts .dacWrite h
  · exact Command.formNone_accepts .convertPulses h
  · exact Command.formValVal_accepts .fSmooth h
  · exact Command.formVal_accepts .fDacScale h
  · exact Command.formVal_accepts .fPwmScale h
  · exact Command.formVal_accepts .fPwmDecode h
  · exact Command.formVal_accepts .fInInvert h
  · exact Command.formVal_accepts .fRect h
  · exact Command.formVal_accepts .fGamma h
  · exact Command.formIdxCode_accepts .fDacFrame h
  · exact Command.formIdx_accepts .rdChan h
  · exact Command.formNone_accepts .rdPhase h

/-- The decoder checks RSV and then the row the OPC selects. -/
theorem decode_eq_ok_iff {w : CmdWord} {i : Instr} :
    decode w = .ok i ↔ (Command.ofWord w).rsv = 0 ∧ (Command.ofWord w).select = .ok i := ite_error_eq_ok

/-- Settles O3: the fields of an accepted word are a command's, which are legal, and each row is accepted by its form. -/
theorem decodeAcceptsExactlyLegalWords : Obligations.DecodeAcceptsExactlyLegalWords := by
  intro w
  constructor
  · rintro ⟨i, hi⟩
    exact fields_of_decode hi ▸ i.wellFormed_fields
  · intro hw
    obtain ⟨r, hr, hfits⟩ := Command.wellFormed_iff.mp hw
    obtain ⟨-, hrsv, -⟩ := Command.fits_iff.mp hfits
    obtain ⟨i, hi⟩ := Command.select_accepts hr hfits
    exact ⟨i, decode_eq_ok_iff.mpr ⟨hrsv, hi⟩⟩

end Sys2Proof

/-! The assembler: each command's line names its row, and the row writes the command's fields. -/

namespace Sys2Proof.Machine

/-- Numbers that are the fields of a word assemble to that word (R80). -/
theorem asmWord_toNat (o : BitVec 8) (idx : BitVec 4) (a b : U16) :
    asmWord o idx.toNat a.toNat b.toNat = some (Command.toWord ⟨o, idx, 0, a, b⟩) := by
  simp [asmWord, idx.isLt, a.isLt, b.isLt]

/-! The numbers of each operand form assemble to the fields the encoder gives them. -/

section AsmForms
variable (o : BitVec 8)

theorem asmWord_none : asmWord o 0 0 0 = some (Command.toWord ⟨o, 0, 0, 0, 0⟩) := asmWord_toNat o 0 0 0

theorem asmWord_val (v : U16) : asmWord o 0 v.toNat 0 = some (Command.toWord ⟨o, 0, 0, v, 0⟩) := asmWord_toNat o 0 v 0

theorem asmWord_valVal (v w : U16) : asmWord o 0 v.toNat w.toNat = some (Command.toWord ⟨o, 0, 0, v, w⟩) :=
  asmWord_toNat o 0 v w

theorem asmWord_idxVal {n : Nat} (hn : n ≤ 16) (k : Fin n) (v : U16) :
    asmWord o k v.toNat 0 = some (Command.toWord ⟨o, idxField k, 0, v, 0⟩) := by
  rw [← asmWord_toNat, idxField_toNat hn]
  rfl

theorem asmWord_idx {n : Nat} (hn : n ≤ 16) (k : Fin n) :
    asmWord o k 0 0 = some (Command.toWord ⟨o, idxField k, 0, 0, 0⟩) := asmWord_idxVal o hn k 0

theorem asmWord_idxBool {n : Nat} (hn : n ≤ 16) (k : Fin n) (b : Bool) :
    asmWord o k b.toNat 0 = some (Command.toWord ⟨o, idxField k, 0, boolField b, 0⟩) := by
  rw [← asmWord_idxVal o hn]
  cases b <;> rfl

theorem asmWord_idxCode {n : Nat} (hn : n ≤ 16) (k : Fin n) (x : U12) :
    asmWord o k x.toNat 0 = some (Command.toWord ⟨o, idxField k, 0, x.zeroExtend 16, 0⟩) := by
  have hx : (x.zeroExtend 16).toNat = x.toNat := BitVec.toNat_setWidth_of_le (by decide)
  rw [← asmWord_idxVal o hn, hx]

end AsmForms

/-- A line whose mnemonic names one row assembles to the word its operands give (R80). -/
theorem AsmLine.assemble_eq_some {l : AsmLine} {o : BitVec 8} {idx a b : Nat} {w : CmdWord}
    (hl : l.assemble = (asmWord o idx a b).map fun w => [w]) (hw : asmWord o idx a b = some w) :
    l.assemble = some [w] := by
  rw [hl, hw, Option.map_some]

/-- Settles O5: the mnemonic finds the command's row, and the operands are the fields of its form. -/
theorem assemblerWritesTheCommandWord : Obligations.AssemblerWritesTheCommandWord := by
  intro i
  cases i with
  | update => exact AsmLine.assemble_eq_some rfl (asmWord_none _)
  | rdAudioIn n => exact AsmLine.assemble_eq_some rfl (asmWord_idx _ (by decide) n)
  | rdCvIn n => exact AsmLine.assemble_eq_some rfl (asmWord_idx _ (by decide) n)
  | rdKnob n => exact AsmLine.assemble_eq_some rfl (asmWord_idx _ (by decide) n)
  | rdSwitch => exact AsmLine.assemble_eq_some rfl (asmWord_none _)
  | rdPulseIn n => exact AsmLine.assemble_eq_some rfl (asmWord_idx _ (by decide) n)
  | wrAudioOut n v => exact AsmLine.assemble_eq_some rfl (asmWord_idxVal _ (by decide) n v)
  | wrCvOut n v => exact AsmLine.assemble_eq_some rfl (asmWord_idxVal _ (by decide) n v)
  | wrPulseOut n b => exact AsmLine.assemble_eq_some rfl (asmWord_idxBool _ (by decide) n b)
  | wrLed k x => exact AsmLine.assemble_eq_some rfl (asmWord_idxVal _ (by decide) k x)
  | rdAudioOut n => exact AsmLine.assemble_eq_some rfl (asmWord_idx _ (by decide) n)
  | rdCvOut n => exact AsmLine.assemble_eq_some rfl (asmWord_idx _ (by decide) n)
  | rdPulseOut n => exact AsmLine.assemble_eq_some rfl (asmWord_idx _ (by decide) n)
  | rdLed k => exact AsmLine.assemble_eq_some rfl (asmWord_idx _ (by decide) k)
  | dacWrite ch code => exact AsmLine.assemble_eq_some rfl (asmWord_idxCode _ (by decide) ch code)
  | convertPulses => exact AsmLine.assemble_eq_some rfl (asmWord_none _)
  | fSmooth old raw => exact AsmLine.assemble_eq_some rfl (asmWord_valVal _ old raw)
  | fDacScale v => exact AsmLine.assemble_eq_some rfl (asmWord_val _ v)
  | fPwmScale v => exact AsmLine.assemble_eq_some rfl (asmWord_val _ v)
  | fPwmDecode d => exact AsmLine.assemble_eq_some rfl (asmWord_val _ d)
  | fInInvert r => exact AsmLine.assemble_eq_some rfl (asmWord_val _ r)
  | fRect r => exact AsmLine.assemble_eq_some rfl (asmWord_val _ r)
  | fGamma x => exact AsmLine.assemble_eq_some rfl (asmWord_val _ x)
  | fDacFrame ch code => exact AsmLine.assemble_eq_some rfl (asmWord_idxCode _ (by decide) ch code)
  | rdChan i => exact AsmLine.assemble_eq_some rfl (asmWord_idx _ (by decide) i)
  | rdPhase => exact AsmLine.assemble_eq_some rfl (asmWord_none _)

end Sys2Proof.Machine

/-! The smoothing filter: the rounding is nearest and stays in range, and with the default factor it converges. -/

namespace Sys2Proof.Machine

/-! ### The rounding -/

/-- The rounding is a nearest integer: it is at most half a unit away (R101). -/
theorem roundNearest_nearest (t : SmoothTie) (up : Bool) (n : Nat) {den : Nat} (hden : 0 < den) :
    2 * (den * roundNearest t up n den) ≤ 2 * n + den ∧ 2 * n ≤ 2 * (den * roundNearest t up n den) + den := by
  have hdiv : den * (n / den) + n % den = n := Nat.div_add_mod n den
  have hmod : n % den < den := Nat.mod_lt n hden
  obtain ⟨hr, hrem⟩ | ⟨hr, hrem⟩ := roundNearest_cases t up n den
  · rw [hr]
    omega
  · rw [hr, Nat.mul_add_one]
    omega

/-- At an exact half the draw names the neighbour (R101, D7). -/
theorem roundNearest_tie_draw {up : Bool} {n den : Nat} (h : 2 * (n % den) = den) :
    roundNearest .draw up n den = n / den + up.toNat := by
  simp only [roundNearest, h, lt_irrefl, if_false, tieBreak]
  cases up <;> rfl

/-- The rounding of a fraction stays between any two integers the fraction is between. -/
theorem roundNearest_mem_range (t : SmoothTie) (up : Bool) {n den lo hi : Nat} (hden : 0 < den) (hlo : den * lo ≤ n)
    (hhi : n ≤ den * hi) : lo ≤ roundNearest t up n den ∧ roundNearest t up n den ≤ hi := by
  obtain ⟨hlower, hupper⟩ := roundNearest_nearest t up n hden
  constructor
  · by_contra! hlt
    have hgap : den * (roundNearest t up n den + 1) ≤ den * lo := Nat.mul_le_mul_left den hlt
    rw [Nat.mul_add_one] at hgap
    omega
  · by_contra! hlt
    have hgap : den * (hi + 1) ≤ den * roundNearest t up n den := Nat.mul_le_mul_left den hlt
    rw [Nat.mul_add_one] at hgap
    omega

/-! ### The smoothed value -/

/-- The numerator of `s·old + (1 - s)·raw` over SMOOTH_S's denominator (R101). -/
def convexSum (c : Config) (old raw : U16) : Nat := c.smoothNum * old.toNat + (c.smoothDen - c.smoothNum) * raw.toNat

theorem smooth_eq (c : Config) (up : Bool) (old raw : U16) :
    smooth c up old raw = BitVec.ofNat 16 (roundNearest c.smoothTie up (convexSum c old raw) c.smoothDen) := rfl

section Smooth
variable {c : Config} (hden : 0 < c.smoothDen) (hs : c.smoothNum ≤ c.smoothDen) (up : Bool) (old raw : U16)
include hs

/-- A convex combination is between what it combines. -/
theorem convexSum_mem_range :
    c.smoothDen * min old.toNat raw.toNat ≤ convexSum c old raw ∧
      convexSum c old raw ≤ c.smoothDen * max old.toNat raw.toNat := by
  have hsplit (x : Nat) : c.smoothDen * x = c.smoothNum * x + (c.smoothDen - c.smoothNum) * x := by
    rw [← Nat.add_mul, Nat.add_sub_cancel' hs]
  rw [hsplit, hsplit]
  exact ⟨Nat.add_le_add (Nat.mul_le_mul_left _ (min_le_left _ _)) (Nat.mul_le_mul_left _ (min_le_right _ _)),
    Nat.add_le_add (Nat.mul_le_mul_left _ (le_max_left _ _)) (Nat.mul_le_mul_left _ (le_max_right _ _))⟩

include hden

/-- The rounding of a convex combination stays between what it combines (R103). -/
theorem roundNearest_convexSum_mem_range :
    min old.toNat raw.toNat ≤ roundNearest c.smoothTie up (convexSum c old raw) c.smoothDen ∧
      roundNearest c.smoothTie up (convexSum c old raw) c.smoothDen ≤ max old.toNat raw.toNat := by
  obtain ⟨hlo, hhi⟩ := convexSum_mem_range hs old raw
  exact roundNearest_mem_range _ up hden hlo hhi

/-- The narrowing to 16 bits loses nothing of the smoothed value (R101, R103). -/
theorem smooth_toNat : (smooth c up old raw).toNat = roundNearest c.smoothTie up (convexSum c old raw) c.smoothDen := by
  have hmax := (roundNearest_convexSum_mem_range hden hs up old raw).2
  rw [smooth_eq, BitVec.toNat_ofNat, Nat.mod_eq_of_lt]
  omega

/-- The smoothed value is a nearest integer to the convex combination (R101). -/
theorem smooth_nearest :
    2 * (c.smoothDen * (smooth c up old raw).toNat) ≤ 2 * convexSum c old raw + c.smoothDen ∧
      2 * convexSum c old raw ≤ 2 * (c.smoothDen * (smooth c up old raw).toNat) + c.smoothDen := by
  rw [smooth_toNat hden hs]
  exact roundNearest_nearest _ up _ hden

end Smooth

/-- Settles O18: the rounding is nearest, and a drawn tie takes the drawn neighbour. -/
theorem smoothRoundsToNearest : Obligations.SmoothRoundsToNearest := by
  rintro c up old raw ⟨hden, hs, -⟩
  obtain ⟨hlower, hupper⟩ := smooth_nearest hden hs up old raw
  refine ⟨hlower, hupper, fun htie hhalf => ?_⟩
  rw [smooth_toNat hden hs, htie]
  exact roundNearest_tie_draw hhalf

/-- Settles O19: the convex combination is between the two values, and rounding keeps it there. -/
theorem smoothStaysBetweenOldAndRaw : Obligations.SmoothStaysBetweenOldAndRaw := by
  rintro c up old raw ⟨hden, hs, -⟩
  rw [smooth_toNat hden hs]
  exact roundNearest_convexSum_mem_range hden hs up old raw

/-- Settles O21: the command returns the smoothed value. -/
theorem smoothCommandReturnsTheRounding : Obligations.SmoothCommandReturnsTheRounding := by
  refine fun s old raw => ⟨smooth s.cfg s.draws.tieA old raw, rfl, ?_⟩
  rintro ⟨hden, hs, -⟩
  exact smooth_nearest hden hs _ old raw

/-! ### Convergence under the default factor -/

/-- The most that one service leaves of a distance to the sample under SMOOTH_S 3/10: three tenths, rounded (R104). -/
def shrink (d : Nat) : Nat := (3 * d + 5) / 10

theorem shrink_mono : Monotone shrink := fun d e h => by
  simp only [shrink]
  omega

/-- Ten services leave nothing of the largest distance two 16-bit values can have. -/
theorem shrink_iterate_eq_zero {k : Nat} (hk : 10 ≤ k) : shrink^[k] 65535 = 0 := by
  obtain ⟨j, rfl⟩ := Nat.exists_eq_add_of_le' hk
  have hten : shrink^[10] 65535 = 0 := by decide
  rw [Function.iterate_add_apply, hten]
  exact Function.iterate_fixed rfl j

/-- The distance of a slot value to the sample. -/
def distTo (target v : U16) : Nat := Nat.dist v.toNat target.toNat

theorem distTo_le (target v : U16) : distTo target v ≤ 65535 := by
  simp only [distTo, Nat.dist]
  omega

theorem eq_of_distTo_le_zero {target v : U16} (h : distTo target v ≤ 0) : v = target :=
  BitVec.eq_of_toNat_eq (Nat.eq_of_dist_eq_zero (Nat.le_zero.mp h))

section DefaultFactor
variable {c : Config} (hnum : c.smoothNum = 3) (hden : c.smoothDen = 10)
include hnum hden

/-- One service shrinks the distance to the sample, whatever is drawn at a tie (R104). -/
theorem distTo_smooth_le (up : Bool) (v target : U16) : distTo target (smooth c up v target) ≤ shrink (distTo target v) := by
  obtain ⟨hlower, hupper⟩ := smooth_nearest (c := c) (by omega) (by omega) up v target
  simp only [convexSum, hnum, hden] at hlower hupper
  simp only [distTo, shrink, Nat.dist]
  omega

/-- Each service shrinks the distance once more. -/
theorem distTo_foldl_smooth_le (target : U16) (ups : List Bool) (v : U16) :
    distTo target (ups.foldl (fun v up => smooth c up v target) v) ≤ shrink^[ups.length] (distTo target v) := by
  induction ups generalizing v with
  | nil => exact le_rfl
  | cons up ups ih =>
    calc distTo target (ups.foldl (fun v up => smooth c up v target) (smooth c up v target))
        _ ≤ shrink^[ups.length] (distTo target (smooth c up v target)) := ih _
        _ ≤ shrink^[ups.length] (shrink (distTo target v)) := shrink_mono.iterate _ (distTo_smooth_le hnum hden up v target)

end DefaultFactor

/-- Settles O20: ten services shrink the distance to 0, and it stays 0. -/
theorem smoothConvergesWithinTenServices : Obligations.SmoothConvergesWithinTenServices := by
  intro c ups old target hnum hden hups
  apply eq_of_distTo_le_zero
  calc distTo target (ups.foldl (fun v up => smooth c up v target) old)
      _ ≤ shrink^[ups.length] (distTo target old) := distTo_foldl_smooth_le hnum hden target ups old
      _ ≤ shrink^[ups.length] 65535 := shrink_mono.iterate _ (distTo_le target old)
      _ = 0 := shrink_iterate_eq_zero hups

end Sys2Proof.Machine

/-! Constant samples over many UPDATE commands: each service of a slot shrinks its distance to the sample. -/

namespace Sys2Proof.Machine

/-- Where every `m` numbers in a row have one with the property, `k` times as many have at least `k`. -/
theorem le_count_of_windows {P : Nat → Prop} [DecidablePred P] {m : Nat} (h : ∀ n, ∃ j < m, P (n + j)) (k : Nat) :
    k ≤ Nat.count P (m * k) := by
  induction k with
  | zero => exact Nat.zero_le _
  | succ k ih =>
    obtain ⟨j, hj, hP⟩ := h (m * k)
    calc k + 1
        _ ≤ Nat.count P (m * k) + 1 := Nat.succ_le_succ ih
        _ ≤ Nat.count P (m * k + j) + 1 := Nat.succ_le_succ (Nat.count_monotone P (Nat.le_add_right _ j))
        _ ≤ Nat.count P (m * (k + 1)) := Nat.count_strict_mono hP (Nat.add_lt_add_left hj _)

/-- Values that at each step stay or are smoothed to the target are as near to it as the smoothings have brought them. -/
theorem distTo_le_of_services {c : Config} (hnum : c.smoothNum = 3) (hden : c.smoothDen = 10) {target : U16} {N : Nat}
    {v : Nat → U16} {P : Nat → Prop} [DecidablePred P]
    (hstep : ∀ n < N, ∃ up, v (n + 1) = if P n then smooth c up (v n) target else v n) :
    ∀ n ≤ N, distTo target (v n) ≤ shrink^[Nat.count P n] 65535 := by
  intro n
  induction n with
  | zero => exact fun _ => distTo_le target (v 0)
  | succ n ih =>
    intro hn
    obtain ⟨up, hv⟩ := hstep n hn
    have hprev := ih (Nat.le_of_succ_le hn)
    rw [hv, Nat.count_succ]
    by_cases hP : P n
    · rw [if_pos hP, if_pos hP, Function.iterate_succ_apply']
      exact (distTo_smooth_le hnum hden up (v n) target).trans (shrink_mono hprev)
    · rwa [if_neg hP, if_neg hP]

/-- With a smoothing in every four steps, forty steps reach the target. -/
theorem eq_target_of_services {c : Config} (hnum : c.smoothNum = 3) (hden : c.smoothDen = 10) {target : U16} {N : Nat}
    {v : Nat → U16} {P : Nat → Prop} [DecidablePred P] (hwindow : ∀ n, ∃ j < 4, P (n + j)) (hN : 40 ≤ N)
    (hstep : ∀ n < N, ∃ up, v (n + 1) = if P n then smooth c up (v n) target else v n) : v N = target := by
  have hcount : 10 ≤ Nat.count P N := (le_count_of_windows hwindow 10).trans (Nat.count_monotone P hN)
  apply eq_of_distTo_le_zero
  calc distTo target (v N)
      _ ≤ shrink^[Nat.count P N] 65535 := distTo_le_of_services hnum hden hstep N le_rfl
      _ = 0 := shrink_iterate_eq_zero hcount

section ConstantSamples
variable {s : State} {N : Nat} {ra rb : U16} (hlen : s.inputs.length = N)
  (hin : ∀ d ∈ s.inputs, d.adcMuxA = ra ∧ d.adcMuxB = rb) {c : Fin 8}
include hlen hin

/-- A slot of the first bus is smoothed to its sample in one phase of four and stays in the others (R23, R100). -/
theorem updates_chan_succ_busA (hc : 4 ≤ c.val) {n : Nat} (hn : n < N) :
    ∃ up, (State.afterUpdate^[n + 1] s).chan[c] =
      if c.val = 4 + (s.phase.toNat + n + 1) % 4 then
        smooth s.cfg up (State.afterUpdate^[n] s).chan[c] (muxSample s.cfg c ra)
      else (State.afterUpdate^[n] s).chan[c] := by
  have hd : n < s.inputs.length := hlen ▸ hn
  have hB : c.val ≠ 2 + (s.phase.toNat + n + 1) % 2 := by omega
  refine ⟨s.inputs[n].tieA, ?_⟩
  rw [updates_chan_succ (List.drop_eq_getElem_cons hd), if_neg hB, (hin _ (List.getElem_mem hd)).1]

/-- A slot of the second bus is smoothed to its sample in every second phase and stays in the others (R23, R100). -/
theorem updates_chan_succ_busB (hc : c.val < 4) {n : Nat} (hn : n < N) :
    ∃ up, (State.afterUpdate^[n + 1] s).chan[c] =
      if c.val = 2 + (s.phase.toNat + n + 1) % 2 then
        smooth s.cfg up (State.afterUpdate^[n] s).chan[c] (muxSample s.cfg c rb)
      else (State.afterUpdate^[n] s).chan[c] := by
  have hd : n < s.inputs.length := hlen ▸ hn
  have hA : c.val ≠ 4 + (s.phase.toNat + n + 1) % 4 := by omega
  refine ⟨s.inputs[n].tieB, ?_⟩
  rw [updates_chan_succ (List.drop_eq_getElem_cons hd), if_neg hA, (hin _ (List.getElem_mem hd)).2]

end ConstantSamples

/-- A CV slot that holds an inverted sample is read as the raw sample, the net non-inversion (R202). -/
theorem exec_rdCvIn_of_inverted {t : State} {n : Fin 2} {r : U16} (h : t.chan[cvSlot n] = invert16 r) :
    exec (.rdCvIn n) t = .next (t.returns r) := by
  simp only [exec, execRdCvIn, h, inInvert, invert16_involutive r]

/-- Settles O26: of four UPDATE commands in a row one services a slot of the first bus and two one of the second, so
forty services each slot ten times. -/
theorem muxInputsConverge : Obligations.MuxInputsConverge := by
  intro s N ra rb hf hnum hden hN hcommands hlen hin
  have hA (c : Fin 8) (hc : 4 ≤ c.val) : (State.afterUpdate^[N] s).chan[c] = muxSample s.cfg c ra := by
    refine eq_target_of_services hnum hden (v := fun n => (State.afterUpdate^[n] s).chan[c]) (fun n => ?_) hN
      fun n hn => updates_chan_succ_busA hlen hin hc hn
    exact ⟨(c.val + 3 * (s.phase.toNat + n + 1)) % 4, by omega, by omega⟩
  have hB (c : Fin 8) (hc : 2 ≤ c.val) (hc' : c.val < 4) : (State.afterUpdate^[N] s).chan[c] = muxSample s.cfg c rb := by
    refine eq_target_of_services hnum hden (v := fun n => (State.afterUpdate^[n] s).chan[c]) (fun n => ?_) hN
      fun n hn => updates_chan_succ_busB hlen hin hc' hn
    exact ⟨(c.val + (s.phase.toNat + n + 1)) % 2, by omega, by omega⟩
  refine ⟨_, completes_updates N hf hcommands, hA, hB, fun n hinv => exec_rdCvIn_of_inverted ?_⟩
  rw [hB (cvSlot n) (by simp [cvSlot]) (by simp only [cvSlot]; omega), muxSample, if_pos hinv]

end Sys2Proof.Machine

/-! One step, its faults, and what raises them. -/

namespace Sys2Proof.Machine

/-! ### The answers of a step -/

/-- Every command answers a next state: a fault is a record in it (R230; assumption 2). -/
theorem exists_exec_eq_next (i : Instr) (s : State) : ∃ t, exec i s = .next t := by
  cases i <;> exact ⟨_, rfl⟩

/-- A running block always has a next state, whatever command waits. -/
theorem exists_step_eq_next {s : State} (hf : s.Running) : ∃ t, step s = .next t := by
  cases hc : s.commands with
  | nil => exact ⟨_, step_of_no_command hf hc⟩
  | cons w ws =>
    cases hd : decode w with
    | error e => exact ⟨_, step_of_error hf hc hd⟩
    | ok i =>
      obtain ⟨t, ht⟩ := exists_exec_eq_next i s.issued
      exact ⟨t, (step_of_ok hf hc hd).trans ht⟩

/-- Settles O11: a stopped block answers its record, a running one a next state. -/
theorem stepStopsOnlyOnARecordedFault : Obligations.StepStopsOnlyOnARecordedFault := by
  intro s
  cases hf : s.fault with
  | some r =>
    have hstep : step s = .fault r := step_of_fault hf
    simp [hstep]
  | none =>
    obtain ⟨t, hstep⟩ := exists_step_eq_next hf
    simp [hstep]

/-- Settles O9: a stopped block answers its record before it looks for a command. -/
theorem stoppedBlockTakesNoCommand : Obligations.StoppedBlockTakesNoCommand := fun _ _ => step_of_fault

/-- Settles O10: a waiting block only has its next draws presented. -/
theorem waitingBlockKeepsItsState : Obligations.WaitingBlockKeepsItsState := fun _ => step_of_no_command

/-! ### The command issued next -/

/-- A 48-bit word is issued as it is: the table's numbering is the word's own (R71; assumption 22). -/
theorem State.withFetchWord_toNat (s : State) (w : CmdWord) : s.withFetchWord 48 w.toNat = s.pushCommand w := by
  have hw : tableWord 48 w.toNat = w.toNat := Nat.mod_eq_of_lt w.isLt
  rw [State.withFetchWord, hw, BitVec.ofNat_toNat, BitVec.setWidth_eq]

/-- Settles O7: the word issued is the first of the list, and taking it leaves the list as it was. -/
theorem issuedWordRunsNext : Obligations.IssuedWordRunsNext := by
  intro s w i hf hd
  rw [s.withFetchWord_toNat]
  exact step_of_ok (s := s.pushCommand w) hf rfl hd

/-! ### Illegal words -/

/-- The decoder rejects every word outside the table (R77). -/
theorem exists_decode_eq_error {w : CmdWord} (h : (Command.ofWord w).wellFormed = false) : ∃ e, decode w = .error e := by
  cases hd : decode w with
  | error e => exact ⟨e, rfl⟩
  | ok i => exact absurd ((decodeAcceptsExactlyLegalWords w).mp ⟨i, hd⟩) (Bool.eq_false_iff.mp h)

/-- Settles O8: a word outside the table is rejected, and a rejected word raises the fault. -/
theorem illegalWordRaisesIllegalCommand : Obligations.IllegalWordRaisesIllegalCommand := by
  intro s w ws hf hc hw
  obtain ⟨e, he⟩ := exists_decode_eq_error hw
  exact step_of_error hf hc he

/-! ### The faults of commands -/

/-- A command keeps the fault record, or it is a listed fault and writes nothing but the record (R230, R231). -/
theorem Effect.fault_cases {s t : State} {i : Instr} (h : Effect s i t) :
    t.fault = s.fault ∨ ∃ r, Raises s i r ∧ t = s.raise r := by
  cases h with
  | raises hr => exact .inr ⟨_, hr, rfl⟩
  | _ => exact .inl (by simp)

/-- A fault found after a command of a running block is one the command raised. -/
theorem Effect.raises_of_fault {s t : State} {i : Instr} {r : Fault} (h : Effect s i t) (hf : s.Running)
    (ht : t.fault = some r) : Raises s i r ∧ t = s.raise r := by
  obtain hkeep | ⟨r', hr, rfl⟩ := h.fault_cases
  · cases ht.symm.trans (hkeep.trans hf)
  · cases ht
    exact ⟨hr, rfl⟩

/-- Settles O12: a waiting block raises nothing, and a rejected word or a command that faults writes only the record. -/
theorem faultingCommandChangesNothingElse : Obligations.FaultingCommandChangesNothingElse := by
  intro s t r hf h ht
  obtain ⟨-, ⟨-, rfl⟩ | ⟨w, ws, -, hc, -, rfl⟩ | ⟨w, ws, i, hc, -, hi⟩⟩ := step_cases h
  · cases ht.symm.trans hf
  · cases ht
    exact ⟨by simp [hc], rfl⟩
  · obtain ⟨-, ht⟩ := (exec_effect hi).raises_of_fault hf ht
    exact ⟨by simp [hc], ht⟩

/-- Settles O13: the five ways a command raises a fault. -/
theorem faultsOnlyAsListed : Obligations.FaultsOnlyAsListed := by
  intro i s t r hf h ht
  obtain ⟨hr, -⟩ := (exec_effect h).raises_of_fault hf ht
  cases hr with
  | wrPulse n b hret => exact .inl ⟨hret, n, .inl ⟨⟨b, rfl⟩, rfl⟩⟩
  | rdPulse n hret => exact .inl ⟨hret, n, .inr ⟨rfl, rfl⟩⟩
  | audio n hn => exact .inr (.inl ⟨n, .inl ⟨rfl, hn, rfl⟩⟩)
  | cv n hn => exact .inr (.inl ⟨n, .inr ⟨rfl, hn, rfl⟩⟩)
  | led k hk => exact .inr (.inr ⟨k, rfl, hk, rfl⟩)

/-- Settles O15: both uses of a retired output raise the fault. -/
theorem retiredPulseOutputFaults : Obligations.RetiredPulseOutputFaults :=
  fun _ n b h => ⟨exec_wrPulseOut_retired h n b, exec_rdPulseOut_retired h n⟩

/-! ### The read-backs -/

/-- The read-back of an unwritten audio output faults (R197, R233). -/
theorem exec_rdAudioOut_of_none {s : State} {n : Fin 2} (h : s.outAudio[n] = none) :
    exec (.rdAudioOut n) s = .next (s.raise (.unwrittenRead 0x18 (recordedIdx n))) := by
  simp only [exec, execRdAudioOut, h, State.readBack_none]

/-- The read-back of an unwritten CV output faults (R198, R233). -/
theorem exec_rdCvOut_of_none {s : State} {n : Fin 2} (h : s.outCv[n] = none) :
    exec (.rdCvOut n) s = .next (s.raise (.unwrittenRead 0x19 (recordedIdx n))) := by
  simp only [exec, execRdCvOut, h, State.readBack_none]

/-- The read-back of an unwritten LED faults (R199, R233). -/
theorem exec_rdLed_of_none {s : State} {k : Fin 6} (h : s.outLed[k] = none) :
    exec (.rdLed k) s = .next (s.raise (.unwrittenRead 0x1B (recordedIdx k))) := by
  simp only [exec, execRdLed, h, State.readBack_none]

/-- Settles O14: each read-back of a cell without a value raises its own record. -/
theorem unwrittenReadBackFaults : Obligations.UnwrittenReadBackFaults :=
  fun _ _ _ => ⟨exec_rdAudioOut_of_none, exec_rdCvOut_of_none, exec_rdLed_of_none⟩

/-- Settles O51: each read-back of a written cell returns the cell. -/
theorem readBacksReturnTheWrittenCell : Obligations.ReadBacksReturnTheWrittenCell :=
  fun _ _ _ _ => ⟨exec_rdAudioOut_of_some, exec_rdCvOut_of_some, exec_rdLed_of_some⟩

/-- Settles O44: an owned output's read-back is its logical value on the result port. -/
theorem pulseOutReadsBackItsLogicalValue : Obligations.PulseOutReadsBackItsLogicalValue :=
  fun _ n h => exec_rdPulseOut_owned h n

end Sys2Proof.Machine

/-! Frames of the output ports, the reads of state, the released pins, and the state after reset. -/

namespace Sys2Proof.Machine

/-! ### The output ports -/

section PortFrame
variable {s t : State} {i : Instr} (h : Effect s i t)
include h

theorem Effect.cvPwm_eq (n : Fin 2) (hi : ∀ v, i ≠ .wrCvOut n v) : t.cvPwm[n] = s.cvPwm[n] := by
  cases h with
  | cv m v =>
    have hm : m ≠ n := by rintro rfl; exact hi v rfl
    exact getElem_set_of_ne s.cvPwm _ hm
  | _ => simp

theorem Effect.ledPwm_eq (k : Fin 6) (hi : ∀ x, i ≠ .wrLed k x) : t.ledPwm[k] = s.ledPwm[k] := by
  cases h with
  | led m x =>
    have hm : m ≠ k := by rintro rfl; exact hi x rfl
    exact getElem_set_of_ne s.ledPwm _ hm
  | _ => simp

theorem Effect.pulseOutLevel_eq (n : Fin 2) (hi : ∀ b, i ≠ .wrPulseOut n b) (hc : i ≠ .convertPulses) :
    t.pulseOutLevel[n] = s.pulseOutLevel[n] := by
  cases h with
  | pulse m b _ =>
    have hm : m ≠ n := by rintro rfl; exact hi b rfl
    exact getElem_set_of_ne s.pulseOutLevel _ hm
  | convert => exact absurd rfl hc
  | _ => simp

end PortFrame

/-- Settles O54: every effect sets at most the port its command names, and only CONVERT_PULSES' both lines. -/
theorem outputPortsChangeOnlyWithTheirCommand : Obligations.OutputPortsChangeOnlyWithTheirCommand := by
  intro i s t h
  have he : Effect s i t := exec_effect h
  exact ⟨he.cvPwm_eq, he.ledPwm_eq, he.pulseOutLevel_eq⟩

/-! ### The reads of state -/

/-- The read-back of a cell that neither the result nor the fault record is part of finds it again (R57). -/
theorem readBack_idempotent {i : Instr} {s t : State} {r : Fault} (cell : State → Option U16)
    (hexec : ∀ s, exec i s = .next (s.readBack (cell s) r)) (hreturns : ∀ s v, cell (s.returns v) = cell s)
    (hraise : ∀ s r, cell (s.raise r) = cell s) (h : exec i s = .next t) :
    t = { s with result := t.result, fault := t.fault } ∧ exec i t = .next t := by
  cases (hexec s).symm.trans h
  cases hv : cell s with
  | none =>
    rw [State.readBack_none, hexec, hraise, hv]
    exact ⟨rfl, rfl⟩
  | some v =>
    rw [State.readBack_some, hexec, hreturns, hv]
    exact ⟨rfl, rfl⟩

/-- Settles O55: a read's answer is a cell no read writes, so a second one finds the same cell, and writing the same
result or fault again changes nothing. -/
theorem stateReadsAreIdempotent : Obligations.StateReadsAreIdempotent := by
  intro i s t hi h
  cases i with
  | rdCvIn n | rdKnob n | rdSwitch | rdChan c | rdPhase =>
    cases h
    exact ⟨rfl, rfl⟩
  | rdAudioOut n => exact readBack_idempotent (·.outAudio[n]) (fun _ => rfl) (fun _ _ => rfl) (fun _ _ => rfl) h
  | rdCvOut n => exact readBack_idempotent (·.outCv[n]) (fun _ => rfl) (fun _ _ => rfl) (fun _ _ => rfl) h
  | rdLed k => exact readBack_idempotent (·.outLed[k]) (fun _ => rfl) (fun _ _ => rfl) (fun _ _ => rfl) h
  | rdPulseOut n =>
    obtain hret | hret := Bool.eq_false_or_eq_true s.pulsesRetired
    · cases (exec_rdPulseOut_retired hret n).symm.trans h
      exact ⟨rfl, exec_rdPulseOut_retired (s := s.raise _) hret n⟩
    · cases (exec_rdPulseOut_owned hret n).symm.trans h
      exact ⟨rfl, exec_rdPulseOut_owned (s := s.returns _) hret n⟩
  | _ => exact hi.elim

/-! ### The serial line -/

/-- Settles O42: the bits from bit 0 up are the range of 8 itself, and reversing it counts from bit 7 down. -/
theorem wireBitsFollowTheBitOrder : Obligations.WireBitsFollowTheBitOrder := by
  intro x i hi
  have hlsb (j : Nat) (hj : j < 8) : ((List.range 8).map x.getLsbD)[j]? = some (x.getLsbD j) := by
    simp [List.getElem?_range hj]
  refine ⟨hlsb i hi, ?_⟩
  have hlen : i < ((List.range 8).map x.getLsbD).length := by simpa using hi
  rw [wireBits, List.getElem?_reverse hlen, List.length_map, List.length_range]
  exact hlsb (8 - 1 - i) (by omega)

/-! ### The released pins -/

/-- Writing both cells of a pair leaves nothing of it. -/
theorem set_both {α : Type} (cells : Vector α 2) (a b : α) : (cells.set 0 a).set 1 b = #v[a, b] := by
  ext j hj
  interval_cases j <;> simp

/-- CONVERT_PULSES retires the outputs and releases both lines (R174). -/
theorem exec_convertPulses (s : State) :
    exec .convertPulses s =
      .next { s with pulsesRetired := true, pulseOutLevel := #v[.released, .released], result := none } := by
  rw [← set_both s.pulseOutLevel]
  rfl

/-- A released pin shows the script's next level and takes it from the script (R174; assumption 18). -/
theorem State.observePulsePin_script {s : State} {n : Fin 2} {b : Bool} {bs : List Bool}
    (h : s.pulseOutLevel[n] = .released) (hb : s.rendererLevels = b :: bs) :
    s.observePulsePin n = (b, { s with rendererLevels := bs, pinTick := s.pinTick + 1 }) := by
  rw [s.observePulsePin_released h, s.nextRendererLevel_script hb, State.takeRendererLevel, hb, List.tail_cons]

/-- Without a script a released pin shows the free level of the observation's own index (R174; assumption 18). -/
theorem State.observePulsePin_free {s : State} {n : Fin 2} (h : s.pulseOutLevel[n] = .released)
    (hb : s.rendererLevels = []) :
    s.observePulsePin n = (Config.freePinLevel s.pinTick, { s with pinTick := s.pinTick + 1 }) := by
  rw [s.observePulsePin_released h, s.nextRendererLevel_free hb, State.takeRendererLevel, hb, List.tail_nil, ← hb]

/-- Settles O45: both lines are released, so each pin shows the script's level; a second command writes the same again. -/
theorem convertPulsesReleasesBothLines : Obligations.ConvertPulsesReleasesBothLines := by
  refine fun s => ⟨_, exec_convertPulses s, rfl, fun n b bs => State.observePulsePin_script ?_ rfl, exec_convertPulses _⟩
  fin_cases n <;> rfl

/-- Settles O60: an observation of a released pin takes one level of the script and leaves every line as it is, so the
next one has the level after it. -/
theorem everyObservationOfAReleasedPinIsItsOwnDraw : Obligations.EveryObservationOfAReleasedPinIsItsOwnDraw := by
  refine fun s n => ⟨fun high h => s.observePulsePin_driven h, fun h => ⟨fun b bs => State.observePulsePin_script h,
    State.observePulsePin_free h, fun m b b' bs hm hb => ?_⟩⟩
  have hrest : s.takeRendererLevel.rendererLevels = b' :: bs := by simp [hb]
  rw [s.observePulsePin_released h, s.takeRendererLevel.observePulsePin_released hm]
  exact ⟨s.nextRendererLevel_script hb, State.nextRendererLevel_script _ hrest⟩

/-! ### The invariant at reset -/

/-- A header as a number: its nibble, above 12 clear bits (R155). -/
theorem legalHeader1_toNat (k : Fin 15) : (legalHeader1 k).toNat = headerNibble k * 4096 := by
  have hk : headerNibble k < 16 := by unfold headerNibble; split <;> omega
  rw [legalHeader1, BitVec.toNat_ofNat]
  omega

/-- No header of channel 1 is channel 0's (R155). -/
theorem legalHeader1_ne (k : Fin 15) : legalHeader1 k ≠ 0x3000 := by
  have hk : headerNibble k ≠ 3 := by unfold headerNibble; split <;> omega
  intro h
  have hnat : headerNibble k * 4096 = 0x3000 := by rw [← legalHeader1_toNat, h]; rfl
  omega

/-- The default configuration is admitted, whatever header channel 1 has (R10, R155; assumption 9). -/
theorem defaultConfig_wellFormed : defaultConfig.WellFormed :=
  ⟨by decide, by decide, by decide, rfl, by simp [defaultConfig, legalHeader1_toNat], legalHeader1_ne Config.freeDacHeader1⟩

theorem reset_cfg : State.reset.cfg = defaultConfig := rfl

/-- Settles O57: no output cell is written, no pulse output retired, and both lines are driven high. -/
theorem resetMeetsTheInvariant : Obligations.ResetMeetsTheInvariant := by
  refine
    { config := reset_cfg ▸ defaultConfig_wellFormed
      lockFree := rfl
      chipSelectHigh := rfl
      bytesInPairs := rfl
      slotsUnassigned := ⟨rfl, rfl⟩
      cvDuty := fun n v h => ?_
      ledDuties := fun k x h => ?_
      pulsesActiveLow := fun _ n => ?_
      pulsesReleased := fun h => ?_ }
  · simp [State.reset] at h
  · simp [State.reset] at h
  · simp [State.reset]
  · cases h

end Sys2Proof.Machine
